-- ==== Sys2Proof/Word.lean ====
section
/-! DEFINITION. The two word sizes of the block: 32-bit command, queue and configuration words (R10, R67) and the
16-bit microwords of the two protocol programs (R107). Bit 0 is the least significant bit (R13). -/

namespace Sys2Proof

/-- A 32-bit word: a command word, a queue entry, a configuration register, a response word (R10, R67). -/
abbrev Word := BitVec 32

/-- A 16-bit microword of a protocol program (R107). -/
abbrev Micro := BitVec 16

end Sys2Proof
end

