-- ==== Sys2Proof/Config.lean ====
section
/-! DEFINITION. What is fixed for the block: the constants of R10, the closed sets of widths and rates, the suggested
defaults of the open parameters (R12), and the FREE VALUES, opaque constants without a body, so that nothing can be
proved of any value of theirs. -/

namespace Sys2Proof

/-- The three agents that take steps (R245). -/
inductive Agent where
  | host
  | led
  | audio
deriving DecidableEq, Repr, Inhabited

/-- The declared sample bit-width W (R10 AUD_WIDTHS, R34). -/
inductive SampleWidth where
  | w16
  | w24
  | w32
deriving DecidableEq, Repr

/-- W as a number. -/
def SampleWidth.bits : SampleWidth → Nat
  | .w16 => 16
  | .w24 => 24
  | .w32 => 32

/-- The sample rates, "a closed enumeration" (R10 AUD_RATES, R47). -/
inductive SampleRate where
  | r8000
  | r16000
  | r32000
  | r44100
  | r48000
  | r88200
  | r96000
deriving DecidableEq, Repr

/-- The rate in Hz. -/
def SampleRate.hz : SampleRate → Nat
  | .r8000 => 8000
  | .r16000 => 16000
  | .r32000 => 32000
  | .r44100 => 44100
  | .r48000 => 48000
  | .r88200 => 88200
  | .r96000 => 96000

/-- An exact real number before rounding (R13, R126): plus or minus `num / den`, or plus or minus its square root when
`root` holds (the roots of R214). Every rule makes it with `den` positive. -/
structure ExactReal where
  neg : Bool
  num : Nat
  den : Nat
  root : Bool
deriving DecidableEq, Repr

namespace Config

/-- PIXEL_BITS of R10. -/
def pixelBits : Nat := 24

/-- LED_CPS of R10: sequencer cycles per LED symbol. -/
def ledCps : Nat := 10

/-- LED_SYMBOL_HZ of R10. -/
def ledSymbolHz : Nat := 800000

/-- AUD_CPS of R10: sequencer cycles per audio symbol. -/
def audCps : Nat := 2

/-- RXQ_DEPTH of R10. -/
def rxqDepth : Nat := 8

/-- FRAME_ENTRIES of R10: queue entries of one stereo frame. -/
def frameEntries : Nat := 2

/-- FREE VALUE (log 1). The agent of turn `n`, where the schedule in State has run out (R245). -/
opaque agentAt : Nat → Agent

/-- FREE VALUE (log 9). The `n`-th level of the DATA line that State does not list (R199). -/
opaque dataBit : Nat → Bool

/-- FREE VALUE (log 8). The `n`-th unspecified data word of DIV_CALC (R127). -/
opaque freeWord : Nat → Word

/-- FREE VALUE (log 7). An implementation's own `fp_round` (R12, R126), a function of the real alone, which is named by
its signed square (log 24); `fpRound` of Machine/Float.lean keeps it inside the limits R126 sets. -/
opaque fpRound : ℚ → Word

end Config

end Sys2Proof
end

