-- ==== Sys2Proof/Machine/Programs.lean ====
section
/-! DEFINITION. The two protocol programs as microwords: fixed, read-only tables (R64, R84, R108, R109). -/

namespace Sys2Proof.Machine

/-- The LED program (R108): `bit_fetch`, `bit_test`, `one_tail`, `zero_tail`. -/
def ledProgram : List Micro := [0x6101#16, 0x4A03#16, 0x2C00#16, 0x0400#16]

/-- SET_CNT W − 2 over its other fields (R109 steps 3 and 7). -/
def setCntWord (base : Micro) (w : SampleWidth) : Micro := base ||| BitVec.ofNat 16 (w.bits - 2)

/-- The audio program for sample width W (R109): `l_smp`, `l_clk`, `l_last_smp`, `l_last_clk`, `r_smp`, `r_clk`,
`r_last_smp`, `r_last_clk`. -/
def audioProgram (w : SampleWidth) : List Micro :=
  [0x8001#16, 0xA800#16, 0x9001#16, setCntWord 0xD800#16 w, 0x9001#16, 0xB804#16, 0x8001#16, setCntWord 0xC800#16 w]

end Sys2Proof.Machine
end

