-- ==== Sys2Proof/Syntax.lean ====
section
/-! DEFINITION. The instructions: one constructor per row of spec/opcode_table.json. Nineteen host commands (level H,
R93), whose argument words are operands, and seven micro-operations (level S, R107). -/

namespace Sys2Proof

/-- An instruction of the block. -/
inductive Instr where
  /-- CFG_WR idx, value (R120). -/
  | cfgWr (idx : BitVec 8) (value : Word)
  /-- DIV_CALC cycles, system_clock_hz, symbol_frequency_hz (R121). -/
  | divCalc (cycles : BitVec 24) (sysClk symFreq : Word)
  /-- LED_INIT (R140). -/
  | ledInit
  /-- SET_COLOR rgb (R141). -/
  | setColor (rgb : BitVec 24)
  /-- SET_RGB r, g, b (R142). -/
  | setRgb (r g b : BitVec 8)
  /-- FILL rgb (R143). -/
  | fill (rgb : BitVec 24)
  /-- CLEAR (R144). -/
  | clear
  /-- AUD_INIT (R170). -/
  | audInit
  /-- IS_READABLE (R171). -/
  | isReadable
  /-- READ_STEREO (R172). -/
  | readStereo
  /-- READ_STEREO_NB (R173). -/
  | readStereoNb
  /-- READ_MONO (R174). -/
  | readMono
  /-- READ_SAMPLES N (R175). -/
  | readSamples (n : BitVec 24)
  /-- READ_SAMPLES_AVAIL N (R176). -/
  | readSamplesAvail (n : BitVec 24)
  /-- GET_FIFO_LEVEL (R177). -/
  | getFifoLevel
  /-- SAMPLE_TO_MONO left, right (R211). -/
  | sampleToMono (left right : Word)
  /-- SAMPLE_TO_FLOAT W, sample (R212). -/
  | sampleToFloat (w : BitVec 8) (sample : Word)
  /-- GET_PEAK left, right (R213). -/
  | getPeak (left right : Word)
  /-- GET_RMS N, left0, right0, ... (R214); N is the number of pairs (log 23). -/
  | getRms (samples : List (Word × Word))
  /-- SEQ.NOP (R107 kind 0, R154). -/
  | seqNop (side : BitVec 2) (delay : BitVec 3) (operand : BitVec 8)
  /-- SEQ.JUMP (R107 kind 1, R153). -/
  | seqJump (side : BitVec 2) (delay : BitVec 3) (target : BitVec 8)
  /-- SEQ.BRZ (R107 kind 2, R152). -/
  | seqBrz (side : BitVec 2) (delay : BitVec 3) (target : BitVec 8)
  /-- SEQ.SHIFT_OUT (R107 kind 3, R151). -/
  | seqShiftOut (side : BitVec 2) (delay : BitVec 3) (count : BitVec 8)
  /-- SEQ.SAMPLE (R107 kind 4, R198). -/
  | seqSample (side : BitVec 2) (delay : BitVec 3) (count : BitVec 8)
  /-- SEQ.LOOP (R107 kind 5, R191, R195). -/
  | seqLoop (side : BitVec 2) (delay : BitVec 3) (target : BitVec 8)
  /-- SEQ.SET_CNT (R107 kind 6, R193, R197). -/
  | seqSetCnt (side : BitVec 2) (delay : BitVec 3) (value : BitVec 8)
deriving DecidableEq, Repr

end Sys2Proof
end

