-- ==== Sys2Proof/Machine/State.lean ====
section
/-! DEFINITION. The state of the block as plain data (R20), the reasons a step can stop, and the state after reset
(R51). What is the model's own is grouped in `RunParams` and `Env`, and in the `incoming` and `responses` of `Port`. -/

namespace Sys2Proof.Machine

/-- The lifecycle of a driver (R244). -/
inductive Lifecycle where
  | uninit
  | running
deriving DecidableEq, Repr

/-- The status codes (R96); their numbers are `Status.code` of Machine/Operands.lean. -/
inductive Status where
  | ok
  | noData
  | eRate
  | eWidth
  | ePins
  | eNoChan
  | eClock
  | ePinRange
  | ePinBusy
  | eAlready
  | eNotInit
  | eIllegal
  | eCfgIdx
  | eArg
deriving DecidableEq, Repr

/-- A completed command's answer: one status word, then data words (R95). -/
structure Response where
  status : Status
  data : List Word
deriving DecidableEq, Repr

/-- The configuration register file `cfg[0..9]` (R40 to R50). -/
structure Cfg where
  /-- `cfg[0]` SYS_CLK_HZ (R41). -/
  sysClkHz : Word
  /-- `cfg[1]` LED_PIN (R42). -/
  ledPin : Word
  /-- `cfg[2]` LED_COUNT (R43). -/
  ledCount : Word
  /-- `cfg[3]` AUD_CLK_PIN (R44). -/
  audClkPin : Word
  /-- `cfg[4]` AUD_WS_PIN (R45). -/
  audWsPin : Word
  /-- `cfg[5]` AUD_DATA_PIN (R46). -/
  audDataPin : Word
  /-- `cfg[6]` AUD_RATE_HZ (R47). -/
  audRateHz : Word
  /-- `cfg[7]` AUD_BITS (R48). -/
  audBits : Word
  /-- `cfg[8]` LED_DIV_OVR (R49). -/
  ledDivOvr : Word
  /-- `cfg[9]` AUD_DIV_OVR (R50). -/
  audDivOvr : Word
deriving DecidableEq, Repr

/-- The LED driver and its channel. -/
structure LedState where
  /-- `led.state` (R30). -/
  state : Lifecycle
  /-- `led.chan` (R30). -/
  chan : Nat
  /-- `led.pin`, the GPIO number of LEDOUT (R30). -/
  pin : Nat
  /-- `led.count` (R30). -/
  count : Word
  /-- `led.div` as a floating-point pattern (R30; log 19). -/
  div : Word
  /-- `txq`, head first (R31). -/
  txq : List Word
  /-- `led.osr` (R22). -/
  osr : Word
  /-- `led.osr_cnt` (R23). -/
  osrCnt : Nat
  /-- `led.bitv` (R24). -/
  bitv : Bool
  /-- `led.pc` (R27). -/
  pc : Nat
  /-- `led.dly` (R28). -/
  dly : Nat
  /-- The level of LEDOUT; `none`: the block does not drive it (R32). -/
  out : Option Bool
  /-- The LED program's step table (R64; log 3). -/
  prog : List Micro
deriving DecidableEq, Repr

/-- The audio driver and its channel. -/
structure AudioState where
  /-- `aud.state` (R34). -/
  state : Lifecycle
  /-- `aud.chan` (R34). -/
  chan : Nat
  /-- `aud.clk_pin`, the GPIO number of BCLK (R34). -/
  clkPin : Nat
  /-- `aud.ws_pin` (R34). -/
  wsPin : Nat
  /-- `aud.data_pin` (R34). -/
  dataPin : Nat
  /-- `aud.w`: sample width and push threshold at once (R34). -/
  w : SampleWidth
  /-- `aud.rate` (R34). -/
  rate : SampleRate
  /-- `aud.div` as a floating-point pattern (R34; log 19). -/
  div : Word
  /-- `rxq`, head first (R35). -/
  rxq : List Word
  /-- `aud.isr` (R25). -/
  isr : Word
  /-- `aud.isr_cnt` (R25). -/
  isrCnt : Nat
  /-- `aud.cnt` (R26). -/
  cnt : Nat
  /-- `aud.pc` (R27). -/
  pc : Nat
  /-- The level of BCLK; `none`: the block does not drive it (R36). -/
  bclk : Option Bool
  /-- The level of WS; `none`: the block does not drive it (R36). -/
  ws : Option Bool
  /-- The audio program's step table (R64, R84; log 3). -/
  prog : List Micro
deriving DecidableEq, Repr

/-- The host port (R38). -/
structure Port where
  /-- The MODEL's: command words the host has yet to deliver, the next first (log 2). -/
  incoming : List Word
  /-- `cmd`: the pending command, `none` when IDLE (R38). -/
  pending : Option Instr
  /-- The pending command's index `i`: how many elementary pushes or reads are done (R38). -/
  idx : Nat
  /-- `resp`: the data words emitted so far for the pending command (R38). -/
  emitted : List Word
  /-- The MODEL's: the responses given so far, oldest first (R53; log 14). -/
  responses : List Response
deriving DecidableEq, Repr

/-- How `fp_round` is realised (R12). -/
inductive Rounding where
  /-- The suggested default: round to nearest, ties to even, of binary32. -/
  | nearestEven
  /-- Any other function within R126: the free value `Config.fpRound`. -/
  | implementation
deriving DecidableEq, Repr

/-- The MODEL's: the open parameters a step reads (R12, R21; log 6, log 7). No step changes them. -/
structure RunParams where
  /-- TXQ_DEPTH. -/
  txqDepth : Nat
  /-- `fp_round`. -/
  rounding : Rounding
  /-- FP_TOL is `fpTolNum / fpTolDen`. -/
  fpTolNum : Nat
  /-- The denominator of FP_TOL. -/
  fpTolDen : Nat
deriving DecidableEq, Repr

/-- The MODEL's: the inputs of R21 and the counters that index the free values. -/
structure Env where
  /-- Whose turn the next steps are (R245; log 1). -/
  schedule : List Agent
  /-- Turns taken so far. -/
  turns : Nat
  /-- The DATA line's coming levels (R199; log 9). -/
  dataIn : List Bool
  /-- How many DATA bits have been drawn. -/
  bitDraws : Nat
  /-- How many unspecified words DIV_CALC has drawn (R127; log 8). -/
  wordDraws : Nat
deriving DecidableEq, Repr

/-- The state of the block (R20). -/
structure State where
  /-- The parameters (R12). -/
  par : RunParams
  /-- `cfg[0..9]` (R40). -/
  cfg : Cfg
  /-- `chan_claimed[0..N_CHANNELS−1]` (R37); its length is N_CHANNELS. -/
  chanClaimed : List Bool
  /-- `pin_claimed[0..N_GPIO−1]` (R37); its length is N_GPIO. -/
  pinClaimed : List Bool
  /-- The LED driver (R22 to R24, R27, R28, R30 to R32). -/
  led : LedState
  /-- The audio driver (R25 to R27, R34 to R36). -/
  aud : AudioState
  /-- The host port (R38). -/
  port : Port
  /-- The inputs (R21). -/
  env : Env
deriving DecidableEq, Repr

/-- Why the machine stops with a fault. Each is raised by the fetch of a channel's step, none by a meaning, and no run
from reset reaches one. -/
inductive Fault where
  /-- The fetch found `led.pc` outside the LED program (R27: indices 0..3). SAFE: the spec has no such state (log 12). -/
  | ledStepIndex
  /-- The fetch found `aud.pc` outside the audio program (R27: indices 0..7). SAFE: the spec has no such state (log 12). -/
  | audioStepIndex
  /-- The fetch met microword kind 7, reserved (R107; U13: "`fault` if a model meets it"). SAFE (log 13). -/
  | reservedKind
  /-- A channel fetched a kind that only the other channel's program has a meaning for (R7, R150, R188). SAFE (log 13). -/
  | foreignKind
deriving DecidableEq, Repr

/-- Why an instruction has no meaning. -/
inductive Refusal where
  /-- Raised by `exec` for an instruction not modelled yet; SAFE. No arm raises it. -/
  | notModelled (mnemonic : String)
deriving DecidableEq, Repr

/-- The outcome of one step. -/
abbrev Result := Host.Outcome State Fault Refusal

/-! ## Updates of one component -/

/-- Replaces the configuration registers. -/
def State.setCfg (s : State) (c : Cfg) : State := { s with cfg := c }
/-- Replaces the channel claims. -/
def State.setChanClaimed (s : State) (l : List Bool) : State := { s with chanClaimed := l }
/-- Replaces the pin claims. -/
def State.setPinClaimed (s : State) (l : List Bool) : State := { s with pinClaimed := l }
/-- Replaces the LED driver. -/
def State.setLed (s : State) (l : LedState) : State := { s with led := l }
/-- Replaces the audio driver. -/
def State.setAud (s : State) (a : AudioState) : State := { s with aud := a }
/-- Replaces the host port. -/
def State.setPort (s : State) (p : Port) : State := { s with port := p }
/-- Replaces the inputs. -/
def State.setEnv (s : State) (e : Env) : State := { s with env := e }

/-! ## Reset -/

/-- Every configuration register is 0x00000000 after reset (R40, R51). -/
def Cfg.reset : Cfg :=
  { sysClkHz := 0#32, ledPin := 0#32, ledCount := 0#32, audClkPin := 0#32, audWsPin := 0#32, audDataPin := 0#32,
    audRateHz := 0#32, audBits := 0#32, ledDivOvr := 0#32, audDivOvr := 0#32 }

/-- The LED driver after reset (R51). DESIGN CHOICE (log 4): the fields R51 leaves unspecified are zero. -/
def LedState.reset : LedState :=
  { state := .uninit, chan := 0, pin := 0, count := 0#32, div := 0#32, txq := [], osr := 0#32, osrCnt := 24,
    bitv := false, pc := 0, dly := 0, out := none, prog := ledProgram }

/-- The audio driver after reset (R51). DESIGN CHOICE (log 4, log 5): the fields R51 leaves unspecified are zero, the
width is 16 with its program and the rate is 8000. -/
def AudioState.reset : AudioState :=
  { state := .uninit, chan := 0, clkPin := 0, wsPin := 0, dataPin := 0, w := .w16, rate := .r8000, div := 0#32,
    rxq := [], isr := 0#32, isrCnt := 0, cnt := 0, pc := 0, bclk := none, ws := none, prog := audioProgram .w16 }

/-- The host port after reset: IDLE, no response (R38, R51). -/
def Port.reset : Port := { incoming := [], pending := none, idx := 0, emitted := [], responses := [] }

/-- No input placed (log 1, log 8, log 9). -/
def Env.reset : Env := { schedule := [], turns := 0, dataIn := [], bitDraws := 0, wordDraws := 0 }

/-- The machine after reset for every choice of the open parameters of R12: `ext` is EXT_CLAIMED_CHANNELS, `extPins`
is EXT_CLAIMED_PINS (R37, R51). -/
def State.resetWith (par : RunParams) (nChannels nGpio ext : Nat) (extPins : List Nat) : State :=
  { par := par, cfg := Cfg.reset, chanClaimed := (List.range nChannels).map fun i => decide (i < ext),
    pinClaimed := (List.range nGpio).map fun n => decide (n ∈ extPins), led := LedState.reset,
    aud := AudioState.reset, port := Port.reset, env := Env.reset }

/-- The defaults R12 suggests: TXQ_DEPTH 4, nearest-even rounding, FP_TOL 2^-23 (log 6). -/
def RunParams.suggested : RunParams :=
  { txqDepth := 4, rounding := .nearestEven, fpTolNum := 1, fpTolDen := 2 ^ 23 }

/-- The machine right after reset (R51, R260), with the parameters R12 suggests: N_CHANNELS 4, N_GPIO 30, no external
claims (log 6). -/
def State.reset : State := State.resetWith RunParams.suggested 4 30 0 []

end Sys2Proof.Machine
end

