-- ==== Sys2Proof/Machine/Flags.lean ====
section
/-! DEFINITION. The block has no stored condition codes and no command writes a flag (R29). Its predicates, each "a pure
function of other state, recomputed whenever read" (R29). -/

namespace Sys2Proof.Machine

/-- `full(txq)` (R29). -/
def txqFull (s : State) : Bool := s.led.txq.length == s.par.txqDepth

/-- The condition SET_COLOR and FILL hold for, `level(txq) < TXQ_DEPTH` (R141, R143). -/
def txqHasRoom (s : State) : Bool := decide (s.led.txq.length < s.par.txqDepth)

/-- `empty(txq)` (R29). -/
def txqEmpty (s : State) : Bool := s.led.txq.length == 0

/-- `readable`: one stereo frame is queued (R29, R171). -/
def readable (s : State) : Bool := decide (Config.frameEntries ≤ s.aud.rxq.length)

/-- `full(rxq)` (R29). -/
def rxqFull (s : State) : Bool := s.aud.rxq.length == Config.rxqDepth

/-- `led_stalled` (R29). -/
def ledStalled (s : State) : Bool :=
  s.led.state == .running && s.led.pc == 0 && s.led.dly == 0 && s.led.osrCnt == Config.pixelBits && txqEmpty s

/-- `aud_stalled` (R29, 90_conflicts.md C10). -/
def audStalled (s : State) : Bool :=
  s.aud.state == .running && (s.aud.pc == 2 || s.aud.pc == 6) && s.aud.isrCnt == s.aud.w.bits - 1 && rxqFull s

end Sys2Proof.Machine
end

