-- ==== Sys2Proof/Decode.lean ====
section
/-! DEFINITION. The decoder, total on any words, and after it the encoder, both from R91 to R94 (command packets) and
R107 (microwords). -/

namespace Sys2Proof

/-! ## Fields -/

/-- `op`, bits 31:24 of a header (R91). -/
def headerOp (h : Word) : BitVec 8 := h.extractLsb' 24 8

/-- `a`, bits 23:0 of a header (R91). -/
def headerA (h : Word) : BitVec 24 := h.extractLsb' 0 24

/-- A header from its fields (R91). -/
def header (op : BitVec 8) (a : BitVec 24) : Word := op ++ a

/-- Bits 23:8 of `a`, which CFG_WR and SAMPLE_TO_FLOAT require to be zero (R93). -/
def aHigh (a : BitVec 24) : BitVec 16 := a.extractLsb' 8 16

/-- Bits 7:0 of `a`: the index of CFG_WR, the W of SAMPLE_TO_FLOAT, the b of SET_RGB (R93). -/
def aLow (a : BitVec 24) : BitVec 8 := a.extractLsb' 0 8

/-- Bits 15:8 of `a`: the g of SET_RGB (R93). -/
def aMid (a : BitVec 24) : BitVec 8 := a.extractLsb' 8 8

/-- Bits 23:16 of `a`: the r of SET_RGB (R93). -/
def aTop (a : BitVec 24) : BitVec 8 := a.extractLsb' 16 8

/-! ## Command packets -/

/-- What the decoder makes of the words waiting at the command port. -/
inductive PacketResult where
  /-- A whole packet; `rest` is what follows it. -/
  | instr (i : Instr) (rest : List Word)
  /-- An illegal header (R94): it takes no argument words. -/
  | illegalHeader (rest : List Word)
  /-- No header yet, or fewer argument words than the header calls for (R281). -/
  | incomplete
deriving DecidableEq, Repr

/-- A command without argument words whose `a` must be zero (R93). -/
def decodeBare (i : Instr) (a : BitVec 24) (ws : List Word) : PacketResult :=
  if a = 0#24 then .instr i ws else .illegalHeader ws

/-- A command with one argument word (R92). -/
def decodeOne (mk : Word → Instr) : List Word → PacketResult
  | x :: rest => .instr (mk x) rest
  | [] => .incomplete

/-- A command with two argument words (R92). -/
def decodeTwo (mk : Word → Word → Instr) : List Word → PacketResult
  | x :: y :: rest => .instr (mk x y) rest
  | _ => .incomplete

/-- The first `n` pairs of argument words, left before right, and what follows them (R93 GET_RMS). -/
def takePairs : Nat → List Word → Option (List (Word × Word) × List Word)
  | 0, ws => some ([], ws)
  | n + 1, l :: r :: ws =>
    match takePairs n ws with
    | some (ps, rest) => some ((l, r) :: ps, rest)
    | none => none
  | _ + 1, _ => none

/-- GET_RMS with N samples: 2N argument words (R93, R214). -/
def decodePairs (n : Nat) (ws : List Word) : PacketResult :=
  match takePairs n ws with
  | some (ps, rest) => .instr (.getRms ps) rest
  | none => .incomplete

/-- The opcode map of R93 with the illegal headers of R94: `op` and `a` of the header, then the words after it. -/
def decodeBody (op : BitVec 8) (a : BitVec 24) (ws : List Word) : PacketResult :=
  if op = 0x01#8 then (if aHigh a = 0#16 then decodeOne (.cfgWr (aLow a)) ws else .illegalHeader ws)
  else if op = 0x02#8 then decodeTwo (.divCalc a) ws
  else if op = 0x10#8 then decodeBare .ledInit a ws
  else if op = 0x11#8 then .instr (.setColor a) ws
  else if op = 0x12#8 then .instr (.setRgb (aTop a) (aMid a) (aLow a)) ws
  else if op = 0x13#8 then .instr (.fill a) ws
  else if op = 0x14#8 then decodeBare .clear a ws
  else if op = 0x20#8 then decodeBare .audInit a ws
  else if op = 0x21#8 then decodeBare .isReadable a ws
  else if op = 0x22#8 then decodeBare .readStereo a ws
  else if op = 0x23#8 then decodeBare .readStereoNb a ws
  else if op = 0x24#8 then decodeBare .readMono a ws
  else if op = 0x25#8 then .instr (.readSamples a) ws
  else if op = 0x26#8 then .instr (.readSamplesAvail a) ws
  else if op = 0x27#8 then decodeBare .getFifoLevel a ws
  else if op = 0x30#8 then (if a = 0#24 then decodeTwo .sampleToMono ws else .illegalHeader ws)
  else if op = 0x31#8 then (if aHigh a = 0#16 then decodeOne (.sampleToFloat (aLow a)) ws else .illegalHeader ws)
  else if op = 0x32#8 then (if a = 0#24 then decodeTwo .getPeak ws else .illegalHeader ws)
  else if op = 0x33#8 then decodePairs a.toNat ws
  else .illegalHeader ws

/-- The packet at the head of a stream of command words (R91 to R94). -/
def decodePacket : List Word → PacketResult
  | [] => .incomplete
  | h :: ws => decodeBody (headerOp h) (headerA h) ws

/-- `nargs(op, a)` of R92 by the table of R93; an illegal header has none (R94). -/
def nargs (op : BitVec 8) (a : BitVec 24) : Nat :=
  if op = 0x01#8 then (if aHigh a = 0#16 then 1 else 0)
  else if op = 0x02#8 then 2
  else if op = 0x30#8 then (if a = 0#24 then 2 else 0)
  else if op = 0x31#8 then (if aHigh a = 0#16 then 1 else 0)
  else if op = 0x32#8 then (if a = 0#24 then 2 else 0)
  else if op = 0x33#8 then 2 * a.toNat
  else 0

/-! ## Microwords -/

/-- `kind`, bits 15:13 (R107). -/
def microKind (w : Micro) : BitVec 3 := w.extractLsb' 13 3

/-- `side`, bits 12:11 (R107). -/
def microSide (w : Micro) : BitVec 2 := w.extractLsb' 11 2

/-- `delay`, bits 10:8 (R107). -/
def microDelay (w : Micro) : BitVec 3 := w.extractLsb' 8 3

/-- `operand`, bits 7:0 (R107). -/
def microOperand (w : Micro) : BitVec 8 := w.extractLsb' 0 8

/-- A microword from its fields (R107). -/
def micro (kind : BitVec 3) (side : BitVec 2) (delay : BitVec 3) (operand : BitVec 8) : Micro :=
  kind ++ side ++ delay ++ operand

/-- The micro-operation of a microword; `none` is kind 7, "reserved (never used)" (R107). -/
def decodeMicro (w : Micro) : Option Instr :=
  let k := microKind w
  let side := microSide w
  let delay := microDelay w
  let operand := microOperand w
  if k = 0#3 then some (.seqNop side delay operand)
  else if k = 1#3 then some (.seqJump side delay operand)
  else if k = 2#3 then some (.seqBrz side delay operand)
  else if k = 3#3 then some (.seqShiftOut side delay operand)
  else if k = 4#3 then some (.seqSample side delay operand)
  else if k = 5#3 then some (.seqLoop side delay operand)
  else if k = 6#3 then some (.seqSetCnt side delay operand)
  else none

/-! ## One decoder for both levels -/

/-- Encoded instructions: a packet of command words, or one microword. -/
inductive Code where
  | packet (ws : List Word)
  | micro (w : Micro)
deriving DecidableEq, Repr

/-- Why bits are no instruction. -/
inductive DecodeError where
  /-- R94. -/
  | illegalHeader
  /-- R281: words are missing. -/
  | incomplete
  /-- Words are left over after the packet. -/
  | trailingWords
  /-- R107: kind 7. -/
  | reservedKind
deriving DecidableEq, Repr

/-- The decoder: the one instruction that `c` holds, or why there is none. -/
def decode : Code → Except DecodeError Instr
  | .packet ws =>
    match decodePacket ws with
    | .instr i [] => .ok i
    | .instr _ (_ :: _) => .error .trailingWords
    | .illegalHeader _ => .error .illegalHeader
    | .incomplete => .error .incomplete
  | .micro w =>
    match decodeMicro w with
    | some i => .ok i
    | none => .error .reservedKind

/-! ## The encoder -/

/-- The argument words of GET_RMS: left0, right0, left1, ... (R93). -/
def pairWords : List (Word × Word) → List Word
  | [] => []
  | (l, r) :: ps => l :: r :: pairWords ps

/-- The words of an instruction (R91 to R93, R107). -/
def encode : Instr → Code
  | .cfgWr idx value => .packet [header 0x01#8 (0#16 ++ idx), value]
  | .divCalc cycles sysClk symFreq => .packet [header 0x02#8 cycles, sysClk, symFreq]
  | .ledInit => .packet [header 0x10#8 0#24]
  | .setColor rgb => .packet [header 0x11#8 rgb]
  | .setRgb r g b => .packet [header 0x12#8 (r ++ g ++ b)]
  | .fill rgb => .packet [header 0x13#8 rgb]
  | .clear => .packet [header 0x14#8 0#24]
  | .audInit => .packet [header 0x20#8 0#24]
  | .isReadable => .packet [header 0x21#8 0#24]
  | .readStereo => .packet [header 0x22#8 0#24]
  | .readStereoNb => .packet [header 0x23#8 0#24]
  | .readMono => .packet [header 0x24#8 0#24]
  | .readSamples n => .packet [header 0x25#8 n]
  | .readSamplesAvail n => .packet [header 0x26#8 n]
  | .getFifoLevel => .packet [header 0x27#8 0#24]
  | .sampleToMono left right => .packet [header 0x30#8 0#24, left, right]
  | .sampleToFloat w sample => .packet [header 0x31#8 (0#16 ++ w), sample]
  | .getPeak left right => .packet [header 0x32#8 0#24, left, right]
  | .getRms samples => .packet (header 0x33#8 (BitVec.ofNat 24 samples.length) :: pairWords samples)
  | .seqNop side delay operand => .micro (micro 0#3 side delay operand)
  | .seqJump side delay target => .micro (micro 1#3 side delay target)
  | .seqBrz side delay target => .micro (micro 2#3 side delay target)
  | .seqShiftOut side delay count => .micro (micro 3#3 side delay count)
  | .seqSample side delay count => .micro (micro 4#3 side delay count)
  | .seqLoop side delay target => .micro (micro 5#3 side delay target)
  | .seqSetCnt side delay value => .micro (micro 6#3 side delay value)

/-! ## Words as spec/opcode_table.json numbers their bits -/

/-- The packet whose bits are `w`: bits 31:0 are the header, each later word takes the next 32 bits, and there are as
many argument words as the header calls for (R92; log 20). -/
def tablePacket (w : Nat) : List Word :=
  let h := BitVec.ofNat 32 w
  h :: (List.range (nargs (headerOp h) (headerA h))).map fun k => BitVec.ofNat 32 (w >>> (32 * (k + 1)))

/-- The bits `w` of a table row of `nbits` bits: a row of 16 bits is a microword, a wider one a packet (log 20). -/
def tableCode (nbits w : Nat) : Code :=
  if nbits ≤ 16 then .micro (BitVec.ofNat 16 w) else .packet (tablePacket w)

/-- The instruction the decoder reads from an instruction whose bits are `w`. -/
def decodeTableWord (nbits w : Nat) : Option Instr :=
  match decode (tableCode nbits w) with
  | .ok i => some i
  | .error _ => none

end Sys2Proof
end

