-- ==== Sys2Proof/Machine/Float.lean ====
section
/-! DEFINITION. Floating-point values on the command port: binary32 patterns (R106), exact reals (R13) and `fp_round`
(R12, R126). A finite magnitude is counted in units of 2^-149, the least positive binary32, so that every comparison is
one of natural numbers. -/

namespace Sys2Proof.Machine

/-! ## Patterns -/

/-- Bit 31, the sign (R106). -/
def fpSign (p : Word) : Bool := p.getLsbD 31

/-- Bits 30:23, the biased exponent (R106). -/
def fpExponent (p : Word) : Nat := (p.extractLsb' 23 8).toNat

/-- Bits 22:0, the fraction (R106). -/
def fpFraction (p : Word) : Nat := (p.extractLsb' 0 23).toNat

/-- Neither an infinity nor a NaN (R106; log 17). -/
def fpFinite (p : Word) : Bool := fpExponent p != 255

/-- The magnitude of a finite pattern in units of 2^-149 (R106; log 17). -/
def fpUnits (p : Word) : Nat :=
  if fpExponent p = 0 then fpFraction p else (2 ^ 23 + fpFraction p) * 2 ^ (fpExponent p - 1)

/-- "finite and greater than zero": not a negative number, −0.0, an infinity or a NaN (R49, R125). -/
def finitePositive (p : Word) : Bool := !fpSign p && fpFinite p && decide (0 < fpUnits p)

/-! ## Exact reals -/

/-- Whole part of the square root of `n`, by bits from bit `k − 1` down, `r` found so far. -/
def isqrtFrom (n : Nat) : Nat → Nat → Nat
  | 0, r => r
  | k + 1, r => if (r + 2 ^ k) * (r + 2 ^ k) ≤ n then isqrtFrom n k (r + 2 ^ k) else isqrtFrom n k r

/-- Whole part of the square root. -/
def isqrt (n : Nat) : Nat := isqrtFrom n (Nat.log2 n / 2 + 1) 0

/-- The exact quotient of two naturals (R13). -/
def exactRatio (num den : Nat) : ExactReal := { neg := false, num := num, den := den, root := false }

/-- `m` as a natural to compare with `num / den`: itself, or its square for a root. -/
def exactPower (x : ExactReal) (m : Nat) : Nat := if x.root then m * m else m

/-- Whole part of `abs(x) × 2^k`. -/
def floorAt (x : ExactReal) (k : Nat) : Nat :=
  if x.root then isqrt (x.num * exactPower x (2 ^ k) / x.den) else x.num * 2 ^ k / x.den

/-- `abs(x) × c = m`. -/
def scaledEq (x : ExactReal) (c m : Nat) : Bool := exactPower x m * x.den == x.num * exactPower x c

/-- `abs(x) × c ≤ m`. -/
def scaledLe (x : ExactReal) (c m : Nat) : Bool := decide (x.num * exactPower x c ≤ exactPower x m * x.den)

/-- `m ≤ abs(x) × c`. -/
def leScaled (x : ExactReal) (c m : Nat) : Bool := decide (exactPower x m * x.den ≤ x.num * exactPower x c)

/-! ## Rounding -/

/-- One more than `m` when what was cut off (`cut` of `2^shift`, and something more unless `exact`) is over a half, or
is a half and `m` is odd: nearest, ties to even (R12). -/
def roundHalfEven (m cut shift : Nat) (exact : Bool) : Nat :=
  let half := 2 ^ (shift - 1)
  if half < cut then m + 1
  else if cut = half then (if !exact || m % 2 == 1 then m + 1 else m)
  else m

/-- The magnitude bits 30:0 of `abs(x)` rounded to nearest, ties to even, of binary32 (R12; PRESUMED, log 17). -/
def nearestEvenMagnitude (x : ExactReal) : Nat :=
  let h := floorAt x 180
  let shift := max (Nat.log2 h - 23) 31
  let m := roundHalfEven (h / 2 ^ shift) (h % 2 ^ shift) shift (scaledEq x (2 ^ 180) h)
  min ((shift - 31) * 2 ^ 23 + m) 0x7F800000

/-- `x` rounded to nearest, ties to even, of binary32 (R12). Zero is +0.0 (R212). -/
def nearestEven (x : ExactReal) : Word :=
  let m := nearestEvenMagnitude x
  BitVec.ofNat 32 (if x.neg && m != 0 then 2 ^ 31 + m else m)

/-- `x` is the value of some binary32 pattern. -/
def representable (x : ExactReal) : Bool :=
  let p := nearestEven x
  fpFinite p && scaledEq x (2 ^ 149) (fpUnits p)

/-- `abs(value(p) − x) <= FP_TOL × abs(x)` (R126), for a finite pattern of the sign of `x`. -/
def withinTolerance (par : RunParams) (x : ExactReal) (p : Word) : Bool :=
  fpFinite p && (fpSign p == x.neg)
    && leScaled x (2 ^ 149 * (par.fpTolDen + par.fpTolNum)) (fpUnits p * par.fpTolDen)
    && scaledLe x (2 ^ 149 * (par.fpTolDen - par.fpTolNum)) (fpUnits p * par.fpTolDen)

/-- The square of `x` with the sign of `x`: a rational that names the real `x`, the same for every way to write it. -/
def signedSquare (x : ExactReal) : ℚ :=
  let q : ℚ := (x.num : ℚ) / x.den
  (if x.neg then -1 else 1) * if x.root then q else q * q

/-- `fp_round` (R12, R126; log 7), a function of the real `x`: nearest-even, or the implementation's own free choice kept
within FP_TOL. A real that is a floating-point value is not changed (R126, 92_eei_decisions.md D17; log 21). -/
def fpRound (par : RunParams) (x : ExactReal) : Word :=
  match par.rounding with
  | .nearestEven => nearestEven x
  | .implementation =>
    if representable x then nearestEven x
    else if withinTolerance par x (Config.fpRound (signedSquare x)) then Config.fpRound (signedSquare x)
    else nearestEven x

/-- `fp_round(div(system_clock, symbol_frequency, cycles_per_symbol))` (R122): the product is over the mathematical
integers. -/
def dividerWord (par : RunParams) (sysClk symFreq cycles : Nat) : Word :=
  fpRound par (exactRatio sysClk (cycles * symFreq))

end Sys2Proof.Machine
end

