-- ==== Sys2Proof/Machine/Operands.lean ====
section
/-! DEFINITION. The operand forms: status numbers, configuration indices, widths and rates, pixel words, raw and signed
samples (R93, R96 to R104, R112). -/

namespace Sys2Proof.Machine

/-! ## Responses -/

/-- The number of a status code (R96). -/
def Status.code : Status → BitVec 8
  | .ok => 0x00#8
  | .noData => 0x01#8
  | .eRate => 0x10#8
  | .eWidth => 0x11#8
  | .ePins => 0x12#8
  | .eNoChan => 0x13#8
  | .eClock => 0x14#8
  | .ePinRange => 0x15#8
  | .ePinBusy => 0x16#8
  | .eAlready => 0x17#8
  | .eNotInit => 0x20#8
  | .eIllegal => 0x21#8
  | .eCfgIdx => 0x22#8
  | .eArg => 0x23#8

/-- The words of a response: the status word, bits 7:0 the code and bits 31:8 zero, then the data words (R95). -/
def Response.words (r : Response) : List Word := (0#24 ++ r.status.code) :: r.data

/-- A count or a level as a data word (R95). -/
def countWord (n : Nat) : Word := BitVec.ofNat 32 n

/-! ## Configuration registers -/

/-- `cfg[idx]`, `none` where there is no register (R61). -/
def readCfg (c : Cfg) (idx : BitVec 8) : Option Word :=
  match idx.toNat with
  | 0 => some c.sysClkHz
  | 1 => some c.ledPin
  | 2 => some c.ledCount
  | 3 => some c.audClkPin
  | 4 => some c.audWsPin
  | 5 => some c.audDataPin
  | 6 => some c.audRateHz
  | 7 => some c.audBits
  | 8 => some c.ledDivOvr
  | 9 => some c.audDivOvr
  | _ => none

/-- `cfg[idx] <- value`, `none` where there is no register (R61, R120). -/
def writeCfg (c : Cfg) (idx : BitVec 8) (value : Word) : Option Cfg :=
  match idx.toNat with
  | 0 => some { c with sysClkHz := value }
  | 1 => some { c with ledPin := value }
  | 2 => some { c with ledCount := value }
  | 3 => some { c with audClkPin := value }
  | 4 => some { c with audWsPin := value }
  | 5 => some { c with audDataPin := value }
  | 6 => some { c with audRateHz := value }
  | 7 => some { c with audBits := value }
  | 8 => some { c with ledDivOvr := value }
  | 9 => some { c with audDivOvr := value }
  | _ => none

/-- The sample width a number declares: exactly 16, 24 or 32 (R48, R212). -/
def widthOfNat (n : Nat) : Option SampleWidth :=
  if n = 16 then some .w16
  else if n = 24 then some .w24
  else if n = 32 then some .w32
  else none

/-- The sample rate a number of Hz names (R47). -/
def rateOfNat (n : Nat) : Option SampleRate :=
  if n = 8000 then some .r8000
  else if n = 16000 then some .r16000
  else if n = 32000 then some .r32000
  else if n = 44100 then some .r44100
  else if n = 48000 then some .r48000
  else if n = 88200 then some .r88200
  else if n = 96000 then some .r96000
  else none

/-- The clock check of both INIT commands: with no override `cfg[0]` must not be 0, an override must be finite and
greater than zero (R125, R140, R170). -/
def clockLegal (ovr sysClkHz : Word) : Bool := if ovr = 0#32 then sysClkHz != 0#32 else finitePositive ovr

/-! ## Pixels -/

/-- The pixel word of `rgb`: green, red, blue, then eight zero bits (R97, R98). -/
def pixelWord (rgb : BitVec 24) : Word := aMid rgb ++ aTop rgb ++ aLow rgb ++ 0#8

/-- SET_RGB's operands as one `rgb` (R99). -/
def rgbOf (r g b : BitVec 8) : BitVec 24 := r ++ g ++ b

/-! ## Samples -/

/-- `sext_N(v)` (R13). -/
def sext (n : Nat) (v : Word) : Int := (v.setWidth n).toInt

/-- A raw word's signed sample (R103). -/
def sampleOf (raw : Word) (w : SampleWidth) : Int := sext w.bits (raw >>> (32 - w.bits))

/-- A signed sample on the result stream: its value mod 2^32 (R104). -/
def sampleWord (v : Int) : Word := BitVec.ofInt 32 v

/-- A raw word as the reads return it (R103, R104). -/
def convertRaw (raw : Word) (w : SampleWidth) : Word := sampleWord (sampleOf raw w)

/-- The raw word of a sample (R112). -/
def encodeSample (v : Int) (w : SampleWidth) : Word := ((BitVec.ofInt w.bits v).setWidth 32) <<< (32 - w.bits)

/-- The word the SAMPLE operation pushes: `aud.isr[W−1:0] << (32 − W)`; the bits above W − 1 leave the word in the
shift (R102, R198). -/
def rawWord (isr : Word) (w : SampleWidth) : Word := isr <<< (32 - w.bits)

/-- The exact value `v / (2^(W−1) − 1)` (R212). -/
def normalised (w : SampleWidth) (v : Int) : ExactReal :=
  { neg := decide (v < 0), num := v.natAbs, den := 2 ^ (w.bits - 1) - 1, root := false }

/-- The exact sum of the squares of a channel's samples (R214). -/
def sumSquares (samples : List Word) : Nat := (samples.map fun x => x.toInt.natAbs ^ 2).sum

/-- The exact root mean square of a channel's samples (R214). -/
def rootMeanSquare (samples : List Word) : ExactReal :=
  { neg := false, num := sumSquares samples, den := samples.length, root := true }

end Sys2Proof.Machine
end

