-- ==== Sys2Proof/Machine/Ops.lean ====
section
/-! DEFINITION. The named operations the meanings share: responses and errors, holds, the two queues, claims, side-band
and step sequencing, the SAMPLE operation (R14 to R16, R35 to R38, R107, R198, R236, R243). -/

namespace Sys2Proof.Machine

/-! ## The host port -/

/-- `respond(status, data)`: the command is complete and the port IDLE (R15, R95). -/
def respond (st : Status) (data : List Word) (s : State) : State :=
  s.setPort { s.port with
    pending := none, idx := 0, emitted := [], responses := s.port.responses ++ [{ status := st, data := data }] }

/-- Error entry, what stands for taking an exception: `respond(code)` with no data words and no other change of state;
no vector, no saved state, no mode (R15, R236). Nothing returns from it (R237). -/
def raiseError (st : Status) (s : State) : State := respond st [] s

/-- `hold`: the command stays pending and changes no state (R15). -/
def hold (i : Instr) (s : State) : State := s.setPort { s.port with pending := some i }

/-- An elementary push or read of a multi-step command is done: its index is `k` and `words` are emitted (R15, R38). -/
def progress (i : Instr) (k : Nat) (words : List Word) (s : State) : State :=
  s.setPort { s.port with pending := some i, idx := k, emitted := s.port.emitted ++ words }

/-- The packet is taken from the port; what follows it stays (R81, R91). -/
def consumePacket (rest : List Word) (s : State) : State := s.setPort { s.port with incoming := rest }

/-! ## The queues -/

/-- `push(txq, word)` (R14, R62). -/
def pushTx (word : Word) (s : State) : State := s.setLed { s.led with txq := s.led.txq ++ [word] }

/-- `push(rxq, word)` (R14, R63). -/
def pushRx (word : Word) (s : State) : State := s.setAud { s.aud with rxq := s.aud.rxq ++ [word] }

/-- `rawL <- pop(rxq); rawR <- pop(rxq)` in one indivisible step: the frame and the state without it; `none` while fewer
than two entries are queued (R74, R172). -/
def popFrame (s : State) : Option (Word × Word × State) :=
  match s.aud.rxq with
  | rawL :: rawR :: rest => some (rawL, rawR, s.setAud { s.aud with rxq := rest })
  | _ => none

/-- A stereo read: the frame popped and converted to its two signed samples (R103, R104, R172). -/
def readFrame (s : State) : Option (Word × Word × State) :=
  match popFrame s with
  | some (rawL, rawR, s') => some (convertRaw rawL s.aud.w, convertRaw rawR s.aud.w, s')
  | none => none

/-! ## Claims -/

/-- N_GPIO (R12, R37). -/
def nGpio (s : State) : Nat := s.pinClaimed.length

/-- `pin_claimed[n] = 1` (R37). -/
def pinIsClaimed (s : State) (n : Nat) : Bool := s.pinClaimed.getD n false

/-- The free channel of least index, `none` when every channel is claimed (R243). -/
def freeChannel (s : State) : Option Nat := s.chanClaimed.findIdx? fun claimed => !claimed

/-- `chan_claimed[i] <- 1` (R243). -/
def claimChannel (i : Nat) (s : State) : State := s.setChanClaimed (s.chanClaimed.set i true)

/-- `pin_claimed[n] <- 1` (R243). -/
def claimPin (n : Nat) (s : State) : State := s.setPinClaimed (s.pinClaimed.set n true)

/-! ## Pins -/

/-- The level the block drives on GPIO `n`; `none` where it drives nothing (R32, R36, R65, R243). -/
def drivenLevel (s : State) (n : Nat) : Option Bool :=
  if s.led.state = .running ∧ n = s.led.pin then s.led.out
  else if s.aud.state = .running ∧ n = s.aud.clkPin then s.aud.bclk
  else if s.aud.state = .running ∧ n = s.aud.wsPin then s.aud.ws
  else none

/-- The LED channel's side-band: microword bit 11 drives LEDOUT. Bit 12 would drive a pin the block has not claimed,
which it never does (R107, R243; log 11). -/
def driveLed (side : BitVec 2) (s : State) : State := s.setLed { s.led with out := some (side.getLsbD 0) }

/-- The audio channel's side-band: microword bit 11 drives BCLK, bit 12 drives WS (R107). -/
def driveAudio (side : BitVec 2) (s : State) : State :=
  s.setAud { s.aud with bclk := some (side.getLsbD 0), ws := some (side.getLsbD 1) }

/-! ## Step sequencing -/

/-- The step after index `i`: `i + 1`, or 0 after the last step of the program (R107). -/
def nextIndex (prog : List Micro) (i : Nat) : Nat := if i + 1 < prog.length then i + 1 else 0

/-- `next t, d` of the LED channel (R16, R28). -/
def ledNext (t : Nat) (delay : BitVec 3) (s : State) : State := s.setLed { s.led with pc := t, dly := delay.toNat }

/-- `next t` of the audio channel, which has no delay counter (R16, R28). -/
def audioNext (t : Nat) (s : State) : State := s.setAud { s.aud with pc := t }

/-! ## The LED shift register -/

/-- One bit of `word` out of the LED shift register: `led.bitv` takes bit 31, a 0 enters at bit 0 (R111, R151). -/
def ledShift (word : Word) (cnt : Nat) (s : State) : State :=
  s.setLed { s.led with bitv := word.getLsbD 31, osr := word <<< 1, osrCnt := cnt + 1 }

/-- SHIFT_OUT after its side-band: the next bit, the register reloaded from `txq` when 24 bits have gone; `none` is the
stall (R151). -/
def shiftOut (s : State) : Option State :=
  if s.led.osrCnt = Config.pixelBits then
    match s.led.txq with
    | [] => none
    | word :: rest => some (ledShift word 0 (s.setLed { s.led with txq := rest }))
  else some (ledShift s.led.osr s.led.osrCnt s)

/-! ## The SAMPLE operation -/

/-- The level `draw_bit()` returns now: the next listed one, a free value where none is listed (R199; log 9). -/
def dataLevel (s : State) : Bool :=
  match s.env.dataIn with
  | b :: _ => b
  | [] => Config.dataBit s.env.bitDraws

/-- `draw_bit()` has been asked for once (R199). -/
def drawBit (s : State) : State :=
  s.setEnv { s.env with dataIn := s.env.dataIn.tail, bitDraws := s.env.bitDraws + 1 }

/-- `aud.isr <- (aud.isr << 1) | bit; aud.isr_cnt <- aud.isr_cnt + 1`, and the push when that makes W bits (R198). -/
def shiftIn (bit : Bool) (s : State) : State :=
  let isr := s.aud.isr.shiftConcat bit
  if s.aud.isrCnt + 1 = s.aud.w.bits then
    pushRx (rawWord isr s.aud.w) (s.setAud { s.aud with isr := 0#32, isrCnt := 0 })
  else s.setAud { s.aud with isr := isr, isrCnt := s.aud.isrCnt + 1 }

/-- The SAMPLE operation; `none` is the stall, which takes no bit (R198). -/
def sample (s : State) : Option State :=
  if s.aud.isrCnt = s.aud.w.bits - 1 ∧ rxqFull s then none else some (shiftIn (dataLevel s) (drawBit s))

end Sys2Proof.Machine
end

