-- ==== Sys2Proof/Machine/AudioCommands.lean ====
section
/-! DEFINITION. The commands of the Audio Protocol Decoder (R170 to R177). -/

namespace Sys2Proof.Machine

/-- "data pin number = word-select pin number + 1", and that clock pin number + 1, over the mathematical integers (R45,
R46, R111). -/
def pinsContiguous (c : Cfg) : Bool :=
  decide (c.audWsPin.toNat = c.audClkPin.toNat + 1) && decide (c.audDataPin.toNat = c.audWsPin.toNat + 1)

/-- One of the three audio pins is claimed (R170). -/
def audioPinBusy (s : State) : Bool :=
  pinIsClaimed s s.cfg.audClkPin.toNat || pinIsClaimed s s.cfg.audWsPin.toNat || pinIsClaimed s s.cfg.audDataPin.toNat

/-- The checks of AUD_INIT in the order of R234: the first that fails, or the rate, the width and the channel to claim
(R170). -/
def audInitCheck (s : State) : Except Status (SampleRate × SampleWidth × Nat) :=
  if s.aud.state = .running then .error .eAlready
  else
    match rateOfNat s.cfg.audRateHz.toNat with
    | none => .error .eRate
    | some rate =>
      match widthOfNat s.cfg.audBits.toNat with
      | none => .error .eWidth
      | some w =>
        if pinsContiguous s.cfg = false then .error .ePins
        else if nGpio s ≤ s.cfg.audDataPin.toNat then .error .ePinRange
        else if clockLegal s.cfg.audDivOvr s.cfg.sysClkHz = false then .error .eClock
        else if audioPinBusy s then .error .ePinBusy
        else
          match freeChannel s with
          | none => .error .eNoChan
          | some ch => .ok (rate, w, ch)

/-- The divider AUD_INIT puts in force (R124, R125). -/
def audioDivider (rate : SampleRate) (w : SampleWidth) (s : State) : Word :=
  if s.cfg.audDivOvr ≠ 0#32 then s.cfg.audDivOvr
  else dividerWord s.par s.cfg.sysClkHz.toNat (rate.hz * w.bits * 2) Config.audCps

/-- The commit of AUD_INIT, one indivisible step (R170); the program becomes the one for W (R84). -/
def audioCommit (rate : SampleRate) (w : SampleWidth) (ch : Nat) (s : State) : State :=
  (claimPin s.cfg.audDataPin.toNat (claimPin s.cfg.audWsPin.toNat (claimPin s.cfg.audClkPin.toNat
    (claimChannel ch s)))).setAud
    { s.aud with
      state := .running, chan := ch, clkPin := s.cfg.audClkPin.toNat, wsPin := s.cfg.audWsPin.toNat,
      dataPin := s.cfg.audDataPin.toNat, w := w, rate := rate, div := audioDivider rate w s,
      rxq := [], isr := 0#32, isrCnt := 0, cnt := w.bits - 2, pc := 0, bclk := some false, ws := some false,
      prog := audioProgram w }

/-- AUD_INIT (R170). -/
def execAudInit (s : State) : Result :=
  match audInitCheck s with
  | .error e => .next (raiseError e s)
  | .ok (rate, w, ch) => .next (respond .ok [] (audioCommit rate w ch s))

/-- IS_READABLE (R171). -/
def execIsReadable (s : State) : Result :=
  if s.aud.state ≠ .running then .next (raiseError .eNotInit s)
  else .next (respond .ok [if readable s then 1#32 else 0#32] s)

/-- READ_STEREO (R172): holds while fewer than two entries are queued. -/
def execReadStereo (s : State) : Result :=
  if s.aud.state ≠ .running then .next (raiseError .eNotInit s)
  else
    match readFrame s with
    | some (l, r, s') => .next (respond .ok [l, r] s')
    | none => .next (hold .readStereo s)

/-- READ_STEREO_NB (R173): NO_DATA instead of the hold. -/
def execReadStereoNb (s : State) : Result :=
  if s.aud.state ≠ .running then .next (raiseError .eNotInit s)
  else
    match readFrame s with
    | some (l, r, s') => .next (respond .ok [l, r] s')
    | none => .next (respond .noData [] s)

/-- READ_MONO (R174): both words are popped, the right one is lost. -/
def execReadMono (s : State) : Result :=
  if s.aud.state ≠ .running then .next (raiseError .eNotInit s)
  else
    match readFrame s with
    | some (l, _, s') => .next (respond .ok [l] s')
    | none => .next (hold .readMono s)

/-- READ_SAMPLES N, one atomic line: a blocking read, with the response after the last (R175; log 10). -/
def execReadSamples (n : BitVec 24) (s : State) : Result :=
  if s.aud.state ≠ .running then .next (raiseError .eNotInit s)
  else if n.toNat ≤ s.port.idx then .next (respond .ok s.port.emitted s)
  else
    match readFrame s with
    | some (l, r, s') =>
      if s.port.idx + 1 = n.toNat then .next (respond .ok (s.port.emitted ++ [l, r]) s')
      else .next (progress (.readSamples n) (s.port.idx + 1) [l, r] s')
    | none => .next (hold (.readSamples n) s)

/-- READ_SAMPLES_AVAIL N, one atomic line: a non-blocking read, with the response after the last or at the first
unavailable slot (R176; log 10). The index is the count so far. -/
def execReadSamplesAvail (n : BitVec 24) (s : State) : Result :=
  if s.aud.state ≠ .running then .next (raiseError .eNotInit s)
  else if n.toNat ≤ s.port.idx then .next (respond .ok (countWord s.port.idx :: s.port.emitted) s)
  else
    match readFrame s with
    | some (l, r, s') =>
      if s.port.idx + 1 = n.toNat then
        .next (respond .ok (countWord (s.port.idx + 1) :: (s.port.emitted ++ [l, r])) s')
      else .next (progress (.readSamplesAvail n) (s.port.idx + 1) [l, r] s')
    | none => .next (respond .ok (countWord s.port.idx :: s.port.emitted) s)

/-- GET_FIFO_LEVEL (R177). -/
def execGetFifoLevel (s : State) : Result :=
  if s.aud.state ≠ .running then .next (raiseError .eNotInit s)
  else .next (respond .ok [countWord s.aud.rxq.length] s)

end Sys2Proof.Machine
end

