-- ==== Sys2Proof/Machine/AudioProgram.lean ====
section
/-! DEFINITION. The micro-operations of the audio protocol program, each the work of one tick (R188 to R198). The
side-band comes first (R16, R189). The delay field is not read: "The audio channel has no delay counter" (R28; log 11). -/

namespace Sys2Proof.Machine

/-- SEQ.SAMPLE: the SAMPLE operation, or the stall with the side-band driven (R190, R192, R194, R196, R198; the count
field: log 11). -/
def execSeqSample (side : BitVec 2) (s : State) : Result :=
  match sample (driveAudio side s) with
  | some s' => .next (audioNext (nextIndex s.aud.prog s.aud.pc) s')
  | none => .next (driveAudio side s)

/-- SEQ.LOOP: "if aud.cnt != 0 decrement and go to target" (R191, R195). -/
def execSeqLoop (side : BitVec 2) (target : BitVec 8) (s : State) : Result :=
  if s.aud.cnt ≠ 0 then
    .next (audioNext target.toNat ((driveAudio side s).setAud { (driveAudio side s).aud with cnt := s.aud.cnt - 1 }))
  else .next (audioNext (nextIndex s.aud.prog s.aud.pc) (driveAudio side s))

/-- SEQ.SET_CNT: the operand into `aud.cnt` (R107, R193, R197; log 18). -/
def execSeqSetCnt (side : BitVec 2) (value : BitVec 8) (s : State) : Result :=
  .next (audioNext (nextIndex s.aud.prog s.aud.pc)
    ((driveAudio side s).setAud { (driveAudio side s).aud with cnt := value.toNat }))

end Sys2Proof.Machine
end

