-- ==== Sys2Proof/Machine/CfgCommands.lean ====
section
/-! DEFINITION. The configuration write and the Clock Divider Calculator (R120 to R127). -/

namespace Sys2Proof.Machine

/-- CFG_WR (R120): the value is stored unchanged; an index above 9 is answered E_CFGIDX. -/
def execCfgWr (idx : BitVec 8) (value : Word) (s : State) : Result :=
  match writeCfg s.cfg idx value with
  | some cfg => .next (respond .ok [] (s.setCfg cfg))
  | none => .next (raiseError .eCfgIdx s)

/-- The next unspecified word has been drawn (R127; log 8). -/
def drawWord (s : State) : State := s.setEnv { s.env with wordDraws := s.env.wordDraws + 1 }

/-- DIV_CALC (R121): the divider of R122 as a floating-point word; an unspecified word when an operand is zero (R127). -/
def execDivCalc (cycles : BitVec 24) (sysClk symFreq : Word) (s : State) : Result :=
  if 0 < sysClk.toNat ∧ 0 < symFreq.toNat ∧ 0 < cycles.toNat then
    .next (respond .ok [dividerWord s.par sysClk.toNat symFreq.toNat cycles.toNat] s)
  else .next (respond .ok [Config.freeWord s.env.wordDraws] (drawWord s))

end Sys2Proof.Machine
end

