-- ==== Sys2Proof/Machine/LedCommands.lean ====
section
/-! DEFINITION. The commands of the LED Protocol Encoder (R140 to R145). -/

namespace Sys2Proof.Machine

/-- The checks of LED_INIT in the order of R233: the first that fails, or the channel to claim (R140). -/
def ledInitCheck (s : State) : Except Status Nat :=
  if s.led.state = .running then .error .eAlready
  else if nGpio s ≤ s.cfg.ledPin.toNat then .error .ePinRange
  else if clockLegal s.cfg.ledDivOvr s.cfg.sysClkHz = false then .error .eClock
  else if pinIsClaimed s s.cfg.ledPin.toNat then .error .ePinBusy
  else
    match freeChannel s with
    | none => .error .eNoChan
    | some ch => .ok ch

/-- The divider LED_INIT puts in force (R123, R125). -/
def ledDivider (s : State) : Word :=
  if s.cfg.ledDivOvr ≠ 0#32 then s.cfg.ledDivOvr
  else dividerWord s.par s.cfg.sysClkHz.toNat Config.ledSymbolHz Config.ledCps

/-- The commit of LED_INIT, one indivisible step (R140). -/
def ledCommit (ch : Nat) (s : State) : State :=
  (claimPin s.cfg.ledPin.toNat (claimChannel ch s)).setLed
    { s.led with
      state := .running, chan := ch, pin := s.cfg.ledPin.toNat, count := s.cfg.ledCount, div := ledDivider s,
      txq := [], osrCnt := Config.pixelBits, pc := 0, dly := 0, out := some false }

/-- LED_INIT (R140). -/
def execLedInit (s : State) : Result :=
  match ledInitCheck s with
  | .error e => .next (raiseError e s)
  | .ok ch => .next (respond .ok [] (ledCommit ch s))

/-- One push and the response, or the hold while `txq` is full: SET_COLOR's pseudocode after its operands (R141). -/
def pushPixel (i : Instr) (rgb : BitVec 24) (s : State) : Result :=
  if s.led.state ≠ .running then .next (raiseError .eNotInit s)
  else if txqHasRoom s then .next (respond .ok [] (pushTx (pixelWord rgb) s))
  else .next (hold i s)

/-- SET_COLOR (R141). -/
def execSetColor (rgb : BitVec 24) (s : State) : Result := pushPixel (.setColor rgb) rgb s

/-- SET_RGB (R142): SET_COLOR of the three bytes put together. -/
def execSetRgb (r g b : BitVec 8) (s : State) : Result := pushPixel (.setRgb r g b) (rgbOf r g b) s

/-- One atomic line of the loop that pushes `word` `led.count` times: a push, with the response after the last, or the
hold while `txq` is full (R143; log 10). -/
def fillLine (i : Instr) (word : Word) (s : State) : Result :=
  if s.led.state ≠ .running then .next (raiseError .eNotInit s)
  else if s.led.count.toNat ≤ s.port.idx then .next (respond .ok [] s)
  else if txqHasRoom s then
    if s.port.idx + 1 = s.led.count.toNat then .next (respond .ok [] (pushTx word s))
    else .next (progress i (s.port.idx + 1) [] (pushTx word s))
  else .next (hold i s)

/-- FILL (R143). -/
def execFill (rgb : BitVec 24) (s : State) : Result := fillLine (.fill rgb) (pixelWord rgb) s

/-- CLEAR (R144): the loop of FILL with the word 0x00000000. -/
def execClear (s : State) : Result := fillLine .clear 0#32 s

end Sys2Proof.Machine
end

