-- ==== Sys2Proof/Machine/LedProgram.lean ====
section
/-! DEFINITION. The micro-operations of the LED protocol program, each the work of one tick with `led.dly` = 0 (R150 to
R154). The side-band comes first (R16). -/

namespace Sys2Proof.Machine

/-- SEQ.NOP (R154). -/
def execSeqNop (side : BitVec 2) (delay : BitVec 3) (s : State) : Result :=
  .next (ledNext (nextIndex s.led.prog s.led.pc) delay (driveLed side s))

/-- SEQ.JUMP (R153). -/
def execSeqJump (side : BitVec 2) (delay : BitVec 3) (target : BitVec 8) (s : State) : Result :=
  .next (ledNext target.toNat delay (driveLed side s))

/-- SEQ.BRZ: to `target` when `led.bitv` = 0 (R152). -/
def execSeqBrz (side : BitVec 2) (delay : BitVec 3) (target : BitVec 8) (s : State) : Result :=
  .next (ledNext (if s.led.bitv then nextIndex s.led.prog s.led.pc else target.toNat) delay (driveLed side s))

/-- SEQ.SHIFT_OUT: one bit out, or the stall with the side-band driven (R151; the count field: log 11). -/
def execSeqShiftOut (side : BitVec 2) (delay : BitVec 3) (s : State) : Result :=
  match shiftOut (driveLed side s) with
  | some s' => .next (ledNext (nextIndex s.led.prog s.led.pc) delay s')
  | none => .next (driveLed side s)

end Sys2Proof.Machine
end

