-- ==== Sys2Proof/Machine/Utilities.lean ====
section
/-! DEFINITION. The four sample utility commands: pure functions, accepted in every lifecycle state (R210 to R215). -/

namespace Sys2Proof.Machine

/-- SAMPLE_TO_MONO (R211): the exact sum, halved toward zero. -/
def execSampleToMono (left right : Word) (s : State) : Result :=
  .next (respond .ok [sampleWord ((left.toInt + right.toInt).tdiv 2)] s)

/-- SAMPLE_TO_FLOAT (R212): the sample over `2^(W−1) − 1`, not clamped. -/
def execSampleToFloat (w : BitVec 8) (x : Word) (s : State) : Result :=
  match widthOfNat w.toNat with
  | none => .next (raiseError .eArg s)
  | some width => .next (respond .ok [fpRound s.par (normalised width x.toInt)] s)

/-- GET_PEAK (R213): absolute values as unsigned words. -/
def execGetPeak (left right : Word) (s : State) : Result :=
  .next (respond .ok [BitVec.ofNat 32 left.toInt.natAbs, BitVec.ofNat 32 right.toInt.natAbs] s)

/-- GET_RMS (R214): per channel, over the whole buffer; N = 0 is answered E_ARG. -/
def execGetRms (samples : List (Word × Word)) (s : State) : Result :=
  if samples.length = 0 then .next (raiseError .eArg s)
  else
    .next (respond .ok
      [fpRound s.par (rootMeanSquare (samples.map Prod.fst)),
        fpRound s.par (rootMeanSquare (samples.map Prod.snd))] s)

end Sys2Proof.Machine
end

