-- ==== Sys2Proof/Machine/Dispatch.lean ====
section
/-! DEFINITION. One arm per instruction. For a command, `exec` is one atomic host step of it, from the index and the
emitted words the port holds (R15, R38); for a micro-operation, the work of one tick (R16). -/

namespace Sys2Proof.Machine

def exec (i : Instr) (s : State) : Host.Outcome State Fault Refusal :=
  match i with
  | .cfgWr idx value => Sys2Proof.Machine.execCfgWr idx value s
  | .divCalc cycles sysClk symFreq => Sys2Proof.Machine.execDivCalc cycles sysClk symFreq s
  | .ledInit => Sys2Proof.Machine.execLedInit s
  | .setColor rgb => Sys2Proof.Machine.execSetColor rgb s
  | .setRgb r g b => Sys2Proof.Machine.execSetRgb r g b s
  | .fill rgb => Sys2Proof.Machine.execFill rgb s
  | .clear => Sys2Proof.Machine.execClear s
  | .audInit => Sys2Proof.Machine.execAudInit s
  | .isReadable => Sys2Proof.Machine.execIsReadable s
  | .readStereo => Sys2Proof.Machine.execReadStereo s
  | .readStereoNb => Sys2Proof.Machine.execReadStereoNb s
  | .readMono => Sys2Proof.Machine.execReadMono s
  | .readSamples n => Sys2Proof.Machine.execReadSamples n s
  | .readSamplesAvail n => Sys2Proof.Machine.execReadSamplesAvail n s
  | .getFifoLevel => Sys2Proof.Machine.execGetFifoLevel s
  | .sampleToMono left right => Sys2Proof.Machine.execSampleToMono left right s
  | .sampleToFloat w x => Sys2Proof.Machine.execSampleToFloat w x s
  | .getPeak left right => Sys2Proof.Machine.execGetPeak left right s
  | .getRms samples => Sys2Proof.Machine.execGetRms samples s
  | .seqNop side delay _ => Sys2Proof.Machine.execSeqNop side delay s
  | .seqJump side delay target => Sys2Proof.Machine.execSeqJump side delay target s
  | .seqBrz side delay target => Sys2Proof.Machine.execSeqBrz side delay target s
  | .seqShiftOut side delay _ => Sys2Proof.Machine.execSeqShiftOut side delay s
  | .seqSample side _ _ => Sys2Proof.Machine.execSeqSample side s
  | .seqLoop side _ target => Sys2Proof.Machine.execSeqLoop side target s
  | .seqSetCnt side _ value => Sys2Proof.Machine.execSeqSetCnt side value s

end Sys2Proof.Machine
end

