-- ==== Sys2Proof/WellFormed.lean ====
section
/-! DEFINITION. Which terms of `Instr` the spec's encodings and programs admit. A command is well-formed when its packet
can be written down (R91 to R93); a micro-operation when it meets R107's own restrictions on its fields and the ranges
R26 and R27 give what it loads. The meanings do not rest on these checks (log 11). -/

namespace Sys2Proof

/-- The micro-operations the LED program is made of (R150). -/
def Instr.isLedStep : Instr → Bool
  | .seqNop .. | .seqJump .. | .seqBrz .. | .seqShiftOut .. => true
  | _ => false

/-- The micro-operations the audio program is made of (R188). -/
def Instr.isAudioStep : Instr → Bool
  | .seqSample .. | .seqLoop .. | .seqSetCnt .. => true
  | _ => false

/-- A host command, level H of R3. -/
def Instr.isCommand (i : Instr) : Bool := !i.isLedStep && !i.isAudioStep

/-- The LED channel's side-band: "LED channel: base pin = `led.pin`, bit 12 must be 0" (R107). -/
def ledSideOk (side : BitVec 2) : Bool := side.getLsbD 1 == false

/-- The well-formedness of an instruction. -/
def Instr.wellFormed : Instr → Bool
  | .cfgWr _ _ => true
  | .divCalc _ _ _ => true
  | .ledInit => true
  | .setColor _ => true
  | .setRgb _ _ _ => true
  | .fill _ => true
  | .clear => true
  | .audInit => true
  | .isReadable => true
  | .readStereo => true
  | .readStereoNb => true
  | .readMono => true
  | .readSamples _ => true
  | .readSamplesAvail _ => true
  | .getFifoLevel => true
  | .sampleToMono _ _ => true
  | .sampleToFloat _ _ => true
  | .getPeak _ _ => true
  | .getRms samples => decide (samples.length < 2 ^ 24)
  | .seqNop side _ operand => ledSideOk side && operand == 0#8
  | .seqJump side _ target => ledSideOk side && decide (target.toNat < 4)
  | .seqBrz side _ target => ledSideOk side && decide (target.toNat < 4)
  | .seqShiftOut side _ count => ledSideOk side && count == 1#8
  | .seqSample _ delay count => delay == 0#3 && count == 1#8
  | .seqLoop _ delay target => delay == 0#3 && decide (target.toNat < 8)
  | .seqSetCnt _ delay value => delay == 0#3 && decide (value.toNat ≤ 30)

end Sys2Proof
end

