-- ==== Sys2Proof/Machine/Fetch.lean ====
section
/-! DEFINITION. What one turn of an agent fetches (R245): an instruction to run, or a turn that is over without one.
Also how an instruction is placed where the next turn fetches it. -/

namespace Sys2Proof.Machine

/-- What a turn comes to. -/
inductive Fetched where
  /-- An instruction, and the state it runs in. -/
  | run (i : Instr) (s : State)
  /-- The turn is over: a delay tick, an answered illegal header, nothing to do. -/
  | settled (s : State)
  /-- The machine stops. -/
  | stop (f : Fault)
deriving DecidableEq, Repr

/-- Whose turn it is: the schedule's next agent, a free choice past its end (R245; log 1). -/
def nextAgent (s : State) : Agent :=
  match s.env.schedule with
  | a :: _ => a
  | [] => Config.agentAt s.env.turns

/-- The turn is taken. -/
def takeTurn (s : State) : State :=
  s.setEnv { s.env with schedule := s.env.schedule.tail, turns := s.env.turns + 1 }

/-- The host's turn: the pending command goes on; an IDLE port takes the next packet, answers an illegal header
E_ILLEGAL, and waits for words that are missing (R94, R235, R246, R281; log 15, log 16). -/
def fetchHost (s : State) : Fetched :=
  match s.port.pending with
  | some i => .run i s
  | none =>
    match decodePacket s.port.incoming with
    | .instr i rest => .run i (consumePacket rest s)
    | .illegalHeader rest => .settled (raiseError .eIllegal (consumePacket rest s))
    | .incomplete => .settled s

/-- The microword at index `pc`, decoded; `mine` says which kinds the channel's program has (log 12, log 13). -/
def fetchMicro (prog : List Micro) (pc : Nat) (mine : Instr → Bool) (outside : Fault) (s : State) : Fetched :=
  match prog[pc]? with
  | none => .stop outside
  | some w =>
    match decodeMicro w with
    | none => .stop .reservedKind
    | some i => if mine i then .run i s else .stop .foreignKind

/-- The LED delay tick (R155). -/
def ledDelayTick (s : State) : State := s.setLed { s.led with dly := s.led.dly - 1 }

/-- The LED channel's turn: nothing while UNINIT, a delay tick while `led.dly` > 0, else the step at `led.pc` (R150,
R155). -/
def fetchLed (s : State) : Fetched :=
  if s.led.state ≠ .running then .settled s
  else if 0 < s.led.dly then .settled (ledDelayTick s)
  else fetchMicro s.led.prog s.led.pc Instr.isLedStep .ledStepIndex s

/-- The audio channel's turn: nothing while UNINIT, else the step at `aud.pc` (R189). -/
def fetchAudio (s : State) : Fetched :=
  if s.aud.state ≠ .running then .settled s
  else fetchMicro s.aud.prog s.aud.pc Instr.isAudioStep .audioStepIndex s

/-- One turn's fetch. -/
def fetch (s : State) : Fetched :=
  match nextAgent s with
  | .host => fetchHost (takeTurn s)
  | .led => fetchLed (takeTurn s)
  | .audio => fetchAudio (takeTurn s)

/-! ## Placing an instruction -/

/-- `s` with the next turn given to `a`. -/
def grantTurn (a : Agent) (s : State) : State := s.setEnv { s.env with schedule := a :: s.env.schedule }

/-- The table with `w` at index `i`, lengthened with zero words if need be. -/
def storeMicro (prog : List Micro) (i : Nat) (w : Micro) : List Micro :=
  prog.take i ++ List.replicate (i - prog.length) 0#16 ++ w :: prog.drop (i + 1)

/-- A packet put at the head of the command port, the port IDLE, the next turn the host's (log 2). -/
def placePacket (ws : List Word) (s : State) : State :=
  grantTurn .host (s.setPort { s.port with incoming := ws ++ s.port.incoming, pending := none, idx := 0, emitted := [] })

/-- A microword at the LED channel's step index, the channel RUNNING and not in a delay, the next turn its (log 3). -/
def placeLedMicro (w : Micro) (s : State) : State :=
  grantTurn .led (s.setLed { s.led with state := .running, dly := 0, prog := storeMicro s.led.prog s.led.pc w })

/-- A microword at the audio channel's step index, the channel RUNNING, the next turn its (log 3). -/
def placeAudioMicro (w : Micro) (s : State) : State :=
  grantTurn .audio (s.setAud { s.aud with state := .running, prog := storeMicro s.aud.prog s.aud.pc w })

/-- The microwords that run in the audio channel: the kinds SAMPLE, LOOP and SET_CNT (R107, R109). -/
def isAudioMicro (w : Micro) : Bool :=
  microKind w == 4#3 || microKind w == 5#3 || microKind w == 6#3

/-- Encoded bits placed where the next turn fetches them. -/
def placeCode (c : Code) (s : State) : State :=
  match c with
  | .packet ws => placePacket ws s
  | .micro w => if isAudioMicro w then placeAudioMicro w s else placeLedMicro w s

end Sys2Proof.Machine
end

