-- ==== Sys2Proof/Machine/Step.lean ====
section
/-! DEFINITION. One step of the block: one turn of one agent (R245). -/

namespace Sys2Proof.Machine

/-- One step: what the turn fetches, run. -/
def step (s : State) : Host.Outcome State Fault Refusal :=
  match fetch s with
  | .run i s' => exec i s'
  | .settled s' => .next s'
  | .stop f => .fault f

/-- `s` with the instruction whose bits are `w` placed where the next step fetches it (log 2, log 3, log 20). -/
def State.withFetchWord (s : State) (nbits w : Nat) : State := placeCode (tableCode nbits w) s

end Sys2Proof.Machine
end

