-- ==== Sys2Proof/Safety.lean ====
section
/-! DEFINITION. Runs given to one agent, and the invariants the claims use: what holds of the block at reset and after
every step. -/

namespace Sys2Proof.Machine

/-! ## Runs -/

/-- One turn given to `a`. -/
def tick (a : Agent) (s : State) : Result := step (grantTurn a s)

/-- The state after `n` turns given to `a`, `none` where the machine stopped. -/
def ticks (a : Agent) : Nat → State → Option State
  | 0, s => some s
  | n + 1, s =>
    match tick a s with
    | .next t => ticks a n t
    | .fault _ => none
    | .refused _ => none

/-- The step of `s` answers a next state. -/
def StepsOn (s : State) : Prop := ∃ t, step s = .next t

/-! ## Invariants -/

/-- The LED driver: the ranges of R23, R27, R28 and R31, the program of R108, "Reached only when `led.bitv` = 1" and
"= 0" (R153, R154), and a pin that is driven exactly while the driver is RUNNING (R32). -/
structure LedInv (s : State) : Prop where
  program : s.led.prog = ledProgram
  depth : s.led.txq.length ≤ s.par.txqDepth
  count : s.led.osrCnt ≤ 24
  index : s.led.pc < 4
  delay : s.led.dly ≤ 4
  shifted : s.led.pc ≠ 0 → 0 < s.led.osrCnt
  oneTail : s.led.pc = 2 → s.led.bitv = true
  zeroTail : s.led.pc = 3 → s.led.bitv = false
  undriven : s.led.state = .uninit → s.led.out = none ∧ s.led.txq = []
  driven : s.led.state = .running → s.led.out.isSome = true

/-- Where a RUNNING audio channel stands in its phase (R25, R26, R188, R198): bits taken and loop counter, and whether
the queue holds an odd word (R72, R200). -/
structure AudioPhase (a : AudioState) : Prop where
  counter : a.cnt ≤ a.w.bits - 2
  sampling : a.pc = 0 ∨ a.pc = 4 → a.isrCnt + a.cnt = a.w.bits - 2
  clocking : a.pc = 1 ∨ a.pc = 5 → a.isrCnt + a.cnt = a.w.bits - 1
  last : a.pc = 2 ∨ a.pc = 6 → a.isrCnt = a.w.bits - 1
  pushed : a.pc = 3 ∨ a.pc = 7 → a.isrCnt = 0
  shifter : a.isr.toNat < 2 ^ a.isrCnt
  parity : a.rxq.length % 2 = if 3 ≤ a.pc ∧ a.pc ≤ 6 then 1 else 0
  aligned : ∀ raw ∈ a.rxq, raw.toNat % 2 ^ (32 - a.w.bits) = 0
  driven : a.bclk.isSome = true ∧ a.ws.isSome = true

/-- The audio driver: the program of R109 for its width, the depth of R35, the index of R27, nothing queued or driven
while UNINIT (R36), its phase while RUNNING. -/
structure AudioInv (s : State) : Prop where
  program : s.aud.prog = audioProgram s.aud.w
  depth : s.aud.rxq.length ≤ 8
  index : s.aud.pc < 8
  undriven : s.aud.state = .uninit → s.aud.rxq = [] ∧ s.aud.bclk = none ∧ s.aud.ws = none
  phase : s.aud.state = .running → AudioPhase s.aud

/-- The claim arena: a RUNNING driver's channel and pins are claimed, no two claims meet (R37, R243), and the audio pins
are one contiguous group (R34, R65). -/
structure ArenaInv (s : State) : Prop where
  ledClaims : s.led.state = .running → s.chanClaimed[s.led.chan]? = some true ∧ s.pinClaimed[s.led.pin]? = some true
  audioChannel : s.aud.state = .running → s.chanClaimed[s.aud.chan]? = some true
  audioPins : s.aud.state = .running →
    s.pinClaimed[s.aud.clkPin]? = some true ∧ s.pinClaimed[s.aud.wsPin]? = some true ∧
      s.pinClaimed[s.aud.dataPin]? = some true
  contiguous : s.aud.state = .running → s.aud.wsPin = s.aud.clkPin + 1 ∧ s.aud.dataPin = s.aud.clkPin + 2
  apart : s.led.state = .running → s.aud.state = .running →
    s.led.chan ≠ s.aud.chan ∧ s.led.pin ≠ s.aud.clkPin ∧ s.led.pin ≠ s.aud.wsPin ∧ s.led.pin ≠ s.aud.dataPin

/-- What the port holds while `i` is pending: only the commands that hold or go on are ever pending, on a RUNNING
driver, with their index below their bound (R38, R143, R175, R176). -/
def pendingOk (s : State) : Instr → Prop
  | .setColor _ => s.led.state = .running ∧ s.port.idx = 0 ∧ s.port.emitted = []
  | .setRgb _ _ _ => s.led.state = .running ∧ s.port.idx = 0 ∧ s.port.emitted = []
  | .fill _ => s.led.state = .running ∧ s.port.idx < s.led.count.toNat ∧ s.port.emitted = []
  | .clear => s.led.state = .running ∧ s.port.idx < s.led.count.toNat ∧ s.port.emitted = []
  | .readStereo => s.aud.state = .running ∧ s.port.idx = 0 ∧ s.port.emitted = []
  | .readMono => s.aud.state = .running ∧ s.port.idx = 0 ∧ s.port.emitted = []
  | .readSamples n => s.aud.state = .running ∧ s.port.idx < n.toNat ∧ s.port.emitted.length = 2 * s.port.idx
  | .readSamplesAvail n => s.aud.state = .running ∧ s.port.idx < n.toNat ∧ s.port.emitted.length = 2 * s.port.idx
  | _ => False

/-- The host port: an IDLE port holds no index and no words (R38). -/
structure PortInv (s : State) : Prop where
  idle : s.port.pending = none → s.port.idx = 0 ∧ s.port.emitted = []
  pending : ∀ i, s.port.pending = some i → pendingOk s i

/-- The invariant of the block. -/
structure Inv (s : State) : Prop where
  led : LedInv s
  audio : AudioInv s
  arena : ArenaInv s
  port : PortInv s

end Sys2Proof.Machine
end

