-- ==== Sys2Proof/Certificates/Slice0/Obligations.lean ====
section
/-! DEFINITION. The statements about the block, and the few words they are written in. A statement about an instruction
gives the WHOLE next state as a record update of the old one, so that it is its frame too: every field it does not name
is unchanged. The block has no byte-addressable memory (R60). -/

namespace Sys2Proof.Claims

open Sys2Proof.Machine

/-! ## Words of the statements -/

/-- The port after a command's answer: IDLE, the response added, the words not yet taken untouched (R38, R95). -/
def answered (p : Port) (st : Status) (data : List Word) : Port :=
  { p with pending := none, idx := 0, emitted := [], responses := p.responses ++ [{ status := st, data := data }] }

/-- The port while `i` holds (R15, R38). -/
def held (p : Port) (i : Instr) : Port := { p with pending := some i }

/-- The port after an elementary push or read of `i` that is not its last (R38). -/
def advanced (p : Port) (i : Instr) (words : List Word) : Port :=
  { p with pending := some i, idx := p.idx + 1, emitted := p.emitted ++ words }

/-- The inputs once a turn is taken (the model's own fields, log 1). -/
def turnTaken (e : Env) : Env := { e with schedule := e.schedule.tail, turns := e.turns + 1 }

/-- The inputs once a turn given by `tick` is taken (the model's own fields, log 1). -/
def oneTurn (e : Env) : Env := { e with turns := e.turns + 1 }

/-- The commands of the LED driver that need it RUNNING (R231, E_NOTINIT). -/
def needsLed : Instr → Bool
  | .setColor _ | .setRgb _ _ _ | .fill _ | .clear => true
  | _ => false

/-- The commands of the audio driver that need it RUNNING (R231, E_NOTINIT). -/
def needsAudio : Instr → Bool
  | .isReadable | .readStereo | .readStereoNb | .readMono | .readSamples _ | .readSamplesAvail _ | .getFifoLevel => true
  | _ => false

/-- The command rows of R93 as (match, mask). -/
def commandRows : List (Word × Word) :=
  [(0x01000000#32, 0xFFFFFF00#32), (0x02000000#32, 0xFF000000#32), (0x10000000#32, 0xFFFFFFFF#32),
    (0x11000000#32, 0xFF000000#32), (0x12000000#32, 0xFF000000#32), (0x13000000#32, 0xFF000000#32),
    (0x14000000#32, 0xFFFFFFFF#32), (0x20000000#32, 0xFFFFFFFF#32), (0x21000000#32, 0xFFFFFFFF#32),
    (0x22000000#32, 0xFFFFFFFF#32), (0x23000000#32, 0xFFFFFFFF#32), (0x24000000#32, 0xFFFFFFFF#32),
    (0x25000000#32, 0xFF000000#32), (0x26000000#32, 0xFF000000#32), (0x27000000#32, 0xFFFFFFFF#32),
    (0x30000000#32, 0xFFFFFFFF#32), (0x31000000#32, 0xFFFFFF00#32), (0x32000000#32, 0xFFFFFFFF#32),
    (0x33000000#32, 0xFF000000#32)]

/-- A header that no row accepts (R94). -/
def noRow (h : Word) : Prop := ∀ row ∈ commandRows, h &&& row.2 ≠ row.1

/-- The number a finite binary32 pattern denotes (R106). -/
noncomputable def fpValue (p : Word) : ℝ :=
  let e := (p.extractLsb' 23 8).toNat
  let f := (p.extractLsb' 0 23).toNat
  (if p.getLsbD 31 then -1 else 1) *
    (if e = 0 then (f : ℝ) / 2 ^ 149 else ((2 ^ 23 + f : ℕ) : ℝ) * 2 ^ e / 2 ^ 150)

/-- The pattern is neither an infinity nor a NaN (R106). -/
def fpIsFinite (p : Word) : Prop := (p.extractLsb' 23 8).toNat ≠ 255

/-- The real number an `ExactReal` stands for. -/
noncomputable def realOf (x : ExactReal) : ℝ :=
  (if x.neg then -1 else 1) * (if x.root then Real.sqrt ((x.num : ℝ) / x.den) else (x.num : ℝ) / x.den)

/-- The finite patterns that denote exactly `q`. -/
def isBinary32 (q : ℝ) : Prop := ∃ p : Word, fpIsFinite p ∧ fpValue p = q

/-- The raw word of the W bits `bits`, the first sampled in bit 31 (R69, R102). -/
def rawOfBits (bits : List Bool) : Word :=
  BitVec.ofNat 32 ((bits.foldl (fun acc b => 2 * acc + b.toNat) 0) * 2 ^ (32 - bits.length))

/-- What a stereo read returns for the raw words of `rxq`, in order (R172). -/
def convertedWords (w : SampleWidth) (raws : List Word) : List Word := raws.map fun raw => convertRaw raw w

/-- LEDOUT at tick `k` of a symbol: two low ticks, three high, five high for a one and low for a zero (R156). -/
def symbolLevel (bit : Bool) (k : Nat) : Bool := decide (2 ≤ k ∧ (k < 5 ∨ bit = true))

/-- The bit LED step 0 is about to shift out, `none` where it stalls (R151). -/
def comingBit (l : LedState) : Option Bool :=
  if l.osrCnt = 24 then l.txq.head?.map fun word => word.getLsbD 31 else some (l.osr.getLsbD 31)

/-- The turn of `s` is the host's and the words `ws` wait at an IDLE port (R81). -/
def hostSends (s : State) (ws : List Word) : Prop :=
  nextAgent s = .host ∧ s.port.pending = none ∧ s.port.incoming = ws

/-- The step of `s` answers `st` without data words, leaves the words `rest` at the port and changes nothing else. -/
def stepFails (s : State) (st : Status) (rest : List Word) : Prop :=
  step s = .next { s with port := answered { s.port with incoming := rest } st [], env := turnTaken s.env }

/-- `op` with `a` = 0 and no argument words is the command `i`; with any other `a` it is an illegal header (R93, R94). -/
def bareHeader (op : BitVec 8) (i : Instr) : Prop :=
  ∀ ws : List Word, decodePacket ((op ++ 0#24 : Word) :: ws) = .instr i ws ∧
    ∀ a : BitVec 24, a ≠ 0#24 → decodePacket ((op ++ a : Word) :: ws) = .illegalHeader ws

/-- `op` with `a` = 0 takes two argument words; with any other `a` it is an illegal header (R93, R94). -/
def pairHeader (op : BitVec 8) (mk : Word → Word → Instr) : Prop :=
  ∀ ws : List Word, (∀ x y, decodePacket ((op ++ 0#24 : Word) :: x :: y :: ws) = .instr (mk x y) ws) ∧
    ∀ a : BitVec 24, a ≠ 0#24 → decodePacket ((op ++ a : Word) :: ws) = .illegalHeader ws

/-- `op` with a byte in `a[7:0]` takes one argument word; with a bit of `a[23:8]` set it is an illegal header (R93,
R94). -/
def byteHeader (op : BitVec 8) (mk : BitVec 8 → Word → Instr) : Prop :=
  ∀ ws : List Word, (∀ b x, decodePacket ((op ++ 0#16 ++ b : Word) :: x :: ws) = .instr (mk b x) ws) ∧
    ∀ a : BitVec 24, a.extractLsb' 8 16 ≠ 0#16 → decodePacket ((op ++ a : Word) :: ws) = .illegalHeader ws

/-- The status codes by name and number (R96). -/
def statusTable : List (Status × Nat) :=
  [(.ok, 0x00), (.noData, 0x01), (.eRate, 0x10), (.eWidth, 0x11), (.ePins, 0x12), (.eNoChan, 0x13), (.eClock, 0x14),
    (.ePinRange, 0x15), (.ePinBusy, 0x16), (.eAlready, 0x17), (.eNotInit, 0x20), (.eIllegal, 0x21), (.eCfgIdx, 0x22),
    (.eArg, 0x23)]

/-- A response is one status word, bits 7:0 the code of its status and bits 31:8 zero, then its data words; every status
has its one code, and no two share one (R95, R96). -/
def responseFormat : Prop :=
  (∀ r : Response, ∃ word : Word, r.words = word :: r.data ∧ word.extractLsb' 8 24 = 0#24 ∧
    (r.status, (word.extractLsb' 0 8).toNat) ∈ statusTable) ∧
  ∀ r r' : Response, r.words.head? = r'.words.head? → r.status = r'.status

/-- The data words of `i` when its status is OK: their number, and the count that READ_SAMPLES_AVAIL puts first (R93). -/
def okData : Instr → List Word → Prop
  | .divCalc _ _ _, data | .isReadable, data | .readMono, data | .getFifoLevel, data | .sampleToMono _ _, data
  | .sampleToFloat _ _, data => data.length = 1
  | .readStereo, data | .readStereoNb, data | .getPeak _ _, data | .getRms _, data => data.length = 2
  | .readSamples n, data => data.length = 2 * n.toNat
  | .readSamplesAvail n, data =>
    ∃ count ≤ n.toNat, data.head? = some (BitVec.ofNat 32 count) ∧ data.length = 1 + 2 * count
  | .cfgWr _ _, data | .ledInit, data | .setColor _, data | .setRgb _ _ _, data | .fill _, data | .clear, data
  | .audInit, data | .seqNop _ _ _, data | .seqJump _ _ _, data | .seqBrz _ _ _, data | .seqShiftOut _ _ _, data
  | .seqSample _ _ _, data | .seqLoop _ _ _, data | .seqSetCnt _ _ _, data => data = []

end Sys2Proof.Claims

open Sys2Proof Sys2Proof.Machine Sys2Proof.Claims

/-! ## Encoding -/

/-- Decoding the encoding of a well-formed instruction gives it back, every operand at every value the encoding admits
(R91 to R93, R107). -/
def Obligations.DecodeOfEncode : Prop :=
  ∀ i : Instr, i.wellFormed = true → decode (encode i) = .ok i

/-- Bits that decode to an instruction are that instruction's encoding: no two codes mean the same (R91 to R94, R107). -/
def Obligations.EncodeOfDecode : Prop :=
  ∀ (c : Code) (i : Instr), decode c = .ok i → encode i = c

/-- "A decoder tells the length of a packet from its header alone" (R92): whatever words follow a packet, it decodes to
the same instruction and leaves exactly them. -/
def Obligations.PacketEndsBeforeNextWords : Prop :=
  ∀ (i : Instr) (ws rest : List Word), i.wellFormed = true → encode i = .packet ws →
    decodePacket (ws ++ rest) = .instr i rest

/-- A header is illegal exactly when no row of R93 accepts it under its mask, and it takes no argument words; a microword is
rejected exactly when its kind is 7, reserved (R94, R107). -/
def Obligations.RejectedExactlyOutsideTheTable : Prop :=
  (∀ (h : Word) (ws : List Word), decodePacket (h :: ws) = .illegalHeader ws ↔ noRow h) ∧
  (∀ w : Micro, decode (.micro w) = .error .reservedKind ↔ 0xE000 ≤ w.toNat)

/-- Words the spec writes out decode to the instructions they stand for: packets of 95_test_vectors.md section 1 (S1, S2, S5),
section 2 (V1, V50) and section 3 (P1, P3, P4), whose fields 30_encoding.md section 1 gives, and microwords of its section
4. -/
def Obligations.PublishedWordsDecode : Prop :=
  decodePacket [0x01000000#32, 0x07735940#32] = .instr (.cfgWr 0#8 125000000#32) [] ∧
  decodePacket [0x0200000A#32, 0x07735940#32, 0x000C3500#32] = .instr (.divCalc 10#24 125000000#32 800000#32) [] ∧
  decodePacket [0x11FF0000#32] = .instr (.setColor 0xFF0000#24) [] ∧
  decodePacket [0x12800001#32] = .instr (.setRgb 0x80#8 0x00#8 0x01#8) [] ∧
  decodePacket [0x20000000#32] = .instr .audInit [] ∧
  decodePacket [0x25000004#32] = .instr (.readSamples 4#24) [] ∧
  decodePacket [0x31000010#32, 0x00007FFF#32] = .instr (.sampleToFloat 16#8 32767#32) [] ∧
  decodePacket [0x99000000#32] = .illegalHeader [] ∧
  decodeMicro 0x6101#16 = some (.seqShiftOut 0#2 1#3 1#8) ∧
  decodeMicro 0x4A03#16 = some (.seqBrz 1#2 2#3 3#8) ∧
  decodeMicro 0xD81E#16 = some (.seqSetCnt 3#2 0#3 30#8)

/-! ## Turns -/

/-- On the host's turn the pending command goes on, and an IDLE port runs the command its waiting words decode to, moved
past its words (R38, R81, R246). -/
def Obligations.HostTurnRunsCommand : Prop :=
  (∀ (s : State) (i : Instr) (rest : List Word), nextAgent s = .host → s.port.pending = none →
    decodePacket s.port.incoming = .instr i rest →
    step s = exec i { s with port := { s.port with incoming := rest }, env := turnTaken s.env }) ∧
  (∀ (s : State) (i : Instr), nextAgent s = .host → s.port.pending = some i →
    step s = exec i { s with env := turnTaken s.env })

/-- On a RUNNING channel's turn the micro-operation its step index holds is run, the LED channel's outside a delay (R150,
R189). -/
def Obligations.ChannelTurnRunsStep : Prop :=
  (∀ (s : State) (w : Micro) (i : Instr), nextAgent s = .led → s.led.state = .running → s.led.dly = 0 →
    s.led.prog[s.led.pc]? = some w → decodeMicro w = some i → i.isLedStep = true →
    step s = exec i { s with env := turnTaken s.env }) ∧
  (∀ (s : State) (w : Micro) (i : Instr), nextAgent s = .audio → s.aud.state = .running →
    s.aud.prog[s.aud.pc]? = some w → decodeMicro w = some i → i.isAudioStep = true →
    step s = exec i { s with env := turnTaken s.env })

/-- An instruction placed by `withFetchWord` is what the very next step runs: a packet with the port IDLE, a microword at its
channel's step index with the channel RUNNING and every other word of the program unchanged (the model's own placing,
log 2, log 3). -/
def Obligations.PlacedWordRunsNext : Prop :=
  ∀ (s : State) (nbits w : Nat) (i : Instr), decodeTableWord nbits w = some i →
    (16 < nbits → step (s.withFetchWord nbits w) =
      exec i { s with port := { s.port with pending := none, idx := 0, emitted := [] }, env := oneTurn s.env }) ∧
    (nbits ≤ 16 → i.isLedStep = true → ∃ prog : List Micro,
      prog[s.led.pc]? = some (BitVec.ofNat 16 w) ∧
      (∀ k, k < s.led.prog.length → k ≠ s.led.pc → prog[k]? = s.led.prog[k]?) ∧
      step (s.withFetchWord nbits w) =
        exec i { s with led := { s.led with state := .running, dly := 0, prog := prog }, env := oneTurn s.env }) ∧
    (nbits ≤ 16 → i.isAudioStep = true → ∃ prog : List Micro,
      prog[s.aud.pc]? = some (BitVec.ofNat 16 w) ∧
      (∀ k, k < s.aud.prog.length → k ≠ s.aud.pc → prog[k]? = s.aud.prog[k]?) ∧
      step (s.withFetchWord nbits w) =
        exec i { s with aud := { s.aud with state := .running, prog := prog }, env := oneTurn s.env })

/-- "An illegal header is answered with status E_ILLEGAL, takes no argument words, and changes no state"; an `a` that is
well-formed but out of range is no illegal header: its packet is taken whole and answered with its own error (R94). -/
def Obligations.IllegalHeaderAnswered : Prop :=
  (∀ (s : State) (h : Word) (ws : List Word), hostSends s (h :: ws) → noRow h → stepFails s .eIllegal ws) ∧
  (∀ (s : State) (idx : BitVec 8) (value : Word) (ws : List Word),
    hostSends s ((0x01#8 ++ 0#16 ++ idx : Word) :: value :: ws) → 10 ≤ idx.toNat → stepFails s .eCfgIdx ws) ∧
  (∀ (s : State) (w : BitVec 8) (x : Word) (ws : List Word),
    hostSends s ((0x31#8 ++ 0#16 ++ w : Word) :: x :: ws) → w.toNat ∉ [16, 24, 32] → stepFails s .eArg ws) ∧
  (∀ (s : State) (ws : List Word), hostSends s (0x33000000#32 :: ws) → stepFails s .eArg ws)

/-- "`led.dly <- led.dly − 1`; nothing else changes; LEDOUT keeps the level the last executed step gave it; no queue is
touched" (R155). -/
def Obligations.LedDelayTick : Prop :=
  ∀ s : State, nextAgent s = .led → s.led.state = .running → 0 < s.led.dly →
    step s = .next { s with led := { s.led with dly := s.led.dly - 1 }, env := turnTaken s.env }

/-- A turn nobody can use changes no state of the block: an UNINIT channel does not step, an IDLE port waits for missing
words (R150, R189, R245, R281; how the model lets the turn pass is its own, log 15, log 16). -/
def Obligations.DisabledTurnChangesNothing : Prop :=
  ∀ s : State,
    (nextAgent s = .led ∧ s.led.state = .uninit) ∨ (nextAgent s = .audio ∧ s.aud.state = .uninit) ∨
      (nextAgent s = .host ∧ s.port.pending = none ∧ decodePacket s.port.incoming = .incomplete) →
    step s = .next { s with env := turnTaken s.env }

/-! ## Reset -/

/-- What R51 states of the state after reset, for every choice of the open parameters; the fields it calls unspecified are
not mentioned. -/
def Obligations.ResetValues : Prop :=
  ∀ (par : RunParams) (nChannels nGpio ext : Nat) (extPins : List Nat),
    let s := State.resetWith par nChannels nGpio ext extPins
    (∀ idx : BitVec 8, idx.toNat ≤ 9 → readCfg s.cfg idx = some 0#32) ∧
    s.chanClaimed.length = nChannels ∧ (∀ i < nChannels, s.chanClaimed[i]? = some (decide (i < ext))) ∧
    s.pinClaimed.length = nGpio ∧ (∀ n < nGpio, s.pinClaimed[n]? = some (decide (n ∈ extPins))) ∧
    s.led.state = .uninit ∧ s.led.txq = [] ∧ s.led.osrCnt = 24 ∧ s.led.pc = 0 ∧ s.led.dly = 0 ∧ s.led.out = none ∧
    s.aud.state = .uninit ∧ s.aud.rxq = [] ∧ s.aud.isr = 0#32 ∧ s.aud.isrCnt = 0 ∧ s.aud.cnt = 0 ∧ s.aud.pc = 0 ∧
    s.aud.bclk = none ∧ s.aud.ws = none ∧ s.port.pending = none ∧ s.port.emitted = []

/-- "After reset no pin is driven by the block, no channel steps": nothing runs until the host sends a command (R260). That
the turn of an agent that is not enabled passes is the model's own (log 15), and so is that no word waits at the port after
reset (log 2). -/
def Obligations.ResetIsAtRest : Prop :=
  ∀ (par : RunParams) (nChannels nGpio ext : Nat) (extPins : List Nat) (a : Agent),
    let s := State.resetWith par nChannels nGpio ext extPins
    tick a s = .next { s with env := oneTurn s.env } ∧ ∀ n, drivenLevel s n = none

/-! ## Answers and errors -/

/-- No instruction's meaning stops the machine: `exec` answers a next state for every instruction in every state. -/
def Obligations.EveryInstructionAnswers : Prop :=
  ∀ (i : Instr) (s : State), ∃ t, exec i s = .next t

/-- "A command that ends in an error status has changed no state of the block" (R236), and it has no data words; the same
of NO_DATA. First of a command's host step, then of any step, the answer to an illegal header among them, where only the
port has moved past the words taken; last, such an answer comes in a command's first host step, none pending and no push or
read done before it, so that it is the whole command that has changed nothing. -/
def Obligations.FailedCommandChangesNothing : Prop :=
  (∀ (i : Instr) (s t : State) (st : Status) (data : List Word), exec i s = .next t →
    t.port.responses = s.port.responses ++ [{ status := st, data := data }] → st ≠ .ok →
    data = [] ∧ t = { s with port := answered s.port st [] }) ∧
  (∀ (s t : State) (st : Status) (data : List Word), step s = .next t →
    t.port.responses = s.port.responses ++ [{ status := st, data := data }] → st ≠ .ok →
    data = [] ∧ ∃ rest, t = { s with port := answered { s.port with incoming := rest } st [], env := turnTaken s.env }) ∧
  (∀ (s t : State) (st : Status) (data : List Word), PortInv s → step s = .next t →
    t.port.responses = s.port.responses ++ [{ status := st, data := data }] → st ≠ .ok →
    s.port.pending = none ∧ s.port.idx = 0 ∧ s.port.emitted = [])

/-- The response of a command (R95, R96). One host step of it either answers, once, and leaves the port IDLE, with no data
words unless the status is OK, or answers nothing and keeps it pending; with status OK the data words are as many as its row
of R93 gives; and the words of a response are its status word, the code R96 gives in bits 7:0 and zeros above, then the data
words. That a port keeps the list of its responses is the model's own (log 14). -/
def Obligations.CommandAnswersOnceOrStaysPending : Prop :=
  (∀ (i : Instr) (s t : State), i.isCommand = true → exec i s = .next t →
    (∃ r : Response, (r.status ≠ .ok → r.data = []) ∧
      t.port = { s.port with pending := none, idx := 0, emitted := [], responses := s.port.responses ++ [r] }) ∨
    (t.port.pending = some i ∧ t.port.responses = s.port.responses ∧ t.port.incoming = s.port.incoming)) ∧
  (∀ (i : Instr) (s t : State) (data : List Word), PortInv s → s.port.pending = none ∨ s.port.pending = some i →
    exec i s = .next t → t.port.responses = s.port.responses ++ [{ status := .ok, data := data }] → okData i data) ∧
  responseFormat

/-- Every command of a driver that is UNINIT is answered E_NOTINIT (R231, R244). -/
def Obligations.DriverCommandsNeedInit : Prop :=
  ∀ (i : Instr) (s : State),
    (needsLed i = true ∧ s.led.state = .uninit) ∨ (needsAudio i = true ∧ s.aud.state = .uninit) →
    exec i s = .next { s with port := answered s.port .eNotInit [] }

/-! ## Configuration and the calculator -/

/-- CFG_WR, from its packet to its answer: it stores the value unchanged in the one register it names, in every lifecycle
state, and changes no driver; an index from 10 on is answered E_CFGIDX, a bit set in `a[23:8]` is illegal (R120). -/
def Obligations.CfgWriteStoresOneRegister : Prop :=
  byteHeader 0x01#8 .cfgWr ∧ ∀ (s : State) (idx : BitVec 8) (value : Word),
    (idx.toNat ≤ 9 → ∃ c : Cfg, readCfg c idx = some value ∧ (∀ j, j ≠ idx → readCfg c j = readCfg s.cfg j) ∧
      exec (.cfgWr idx value) s = .next { s with cfg := c, port := answered s.port .ok [] }) ∧
    (10 ≤ idx.toNat →
      exec (.cfgWr idx value) s = .next { s with port := answered s.port .eCfgIdx [] })

/-- DIV_CALC of positive operands answers OK with one word: the divider, within FP_TOL (at least 2^-23) of the exact
quotient, and equal to it wherever the quotient is a floating-point value, the clock and the product floating-point values or
not (R121, R122, R126, 92_eei_decisions.md D17; how R126 and D17 agree: log 21, DEDUCED). -/
def Obligations.DivCalcAnswersQuotient : Prop :=
  ∀ (s : State) (cycles : BitVec 24) (sysClk symFreq : Word),
    0 < cycles.toNat → 0 < sysClk.toNat → 0 < symFreq.toNat →
    0 < s.par.fpTolDen → s.par.fpTolDen ≤ s.par.fpTolNum * 2 ^ 23 →
    ∃ d : Word, exec (.divCalc cycles sysClk symFreq) s = .next { s with port := answered s.port .ok [d] } ∧
      (let product : ℝ := (cycles.toNat * symFreq.toNat : ℕ)
       let q : ℝ := (sysClk.toNat : ℝ) / product
       fpIsFinite d ∧ |fpValue d - q| ≤ (s.par.fpTolNum : ℝ) / s.par.fpTolDen * |q| ∧
       (isBinary32 q → fpValue d = q))

/-- DIV_CALC with a zero operand answers OK with one free word: whatever the model draws next (R127; the draw is the
model's, log 8). -/
def Obligations.DivCalcZeroOperandIsFree : Prop :=
  ∀ (s : State) (cycles : BitVec 24) (sysClk symFreq : Word),
    cycles = 0#24 ∨ sysClk = 0#32 ∨ symFreq = 0#32 →
    exec (.divCalc cycles sysClk symFreq) s = .next { s with
      port := answered s.port .ok [Config.freeWord s.env.wordDraws],
      env := { s.env with wordDraws := s.env.wordDraws + 1 } }

/-- `fp_round` stays within FP_TOL (at least 2^-23) of every ratio and square root between 2^-100 and 2^100 in the ratio, a
range that holds all the rules give it but zero, for every rounding the parameters admit (R126). -/
def Obligations.FpRoundWithinTolerance : Prop :=
  ∀ (par : RunParams) (x : ExactReal), 0 < x.den → 0 < x.num →
    x.num ≤ 2 ^ 100 * x.den → x.den ≤ 2 ^ 100 * x.num →
    0 < par.fpTolDen → par.fpTolDen ≤ par.fpTolNum * 2 ^ 23 →
    fpIsFinite (fpRound par x) ∧
      |fpValue (fpRound par x) - realOf x| ≤ (par.fpTolNum : ℝ) / par.fpTolDen * |realOf x|

/-- `fp_round` is one function of the real, however the real is written (R12), and exact wherever the real is a
floating-point value, under every rounding (R126, 92_eei_decisions.md D17; how the two agree: log 21, DEDUCED). -/
def Obligations.FpRoundExactWhenRepresentable : Prop :=
  (∀ (par : RunParams) (x : ExactReal), 0 < x.den → isBinary32 (realOf x) →
    fpIsFinite (fpRound par x) ∧ fpValue (fpRound par x) = realOf x) ∧
  ∀ (par : RunParams) (x y : ExactReal), 0 < x.den → 0 < y.den → realOf x = realOf y → fpRound par x = fpRound par y

/-! ## LED commands -/

/-- LED_INIT with a legal configuration, a free pin and a free channel takes the free channel of least index, fills the
binding, and starts the channel at step 0 with an empty queue and LEDOUT low (R140). -/
def Obligations.LedInitCommits : Prop :=
  ∀ (s : State) (ch : Nat), s.led.state = .uninit → s.pinClaimed[s.cfg.ledPin.toNat]? = some false →
    s.chanClaimed[ch]? = some false → (∀ j < ch, s.chanClaimed[j]? = some true) →
    (s.cfg.ledDivOvr = 0#32 ∧ s.cfg.sysClkHz ≠ 0#32 ∨
      s.cfg.ledDivOvr ≠ 0#32 ∧ fpIsFinite s.cfg.ledDivOvr ∧ 0 < fpValue s.cfg.ledDivOvr) →
    exec .ledInit s = .next { s with
      chanClaimed := s.chanClaimed.set ch true,
      pinClaimed := s.pinClaimed.set s.cfg.ledPin.toNat true,
      led := { s.led with
        state := .running, chan := ch, pin := s.cfg.ledPin.toNat, count := s.cfg.ledCount,
        div := if s.cfg.ledDivOvr ≠ 0#32 then s.cfg.ledDivOvr
          else dividerWord s.par s.cfg.sysClkHz.toNat 800000 10,
        txq := [], osrCnt := 24, pc := 0, dly := 0, out := some false },
      port := answered s.port .ok [] }

/-- LED_INIT reports the first failing check of R233 and no other, and changes nothing. -/
def Obligations.LedInitReportsFirstFailure : Prop :=
  ∀ s : State,
    let fails (st : Status) := exec .ledInit s = .next { s with port := answered s.port st [] }
    let pin := s.cfg.ledPin.toNat
    let clockBad := s.cfg.ledDivOvr = 0#32 ∧ s.cfg.sysClkHz = 0#32 ∨
      s.cfg.ledDivOvr ≠ 0#32 ∧ ¬ (fpIsFinite s.cfg.ledDivOvr ∧ 0 < fpValue s.cfg.ledDivOvr)
    (s.led.state = .running → fails .eAlready) ∧
    (s.led.state = .uninit → s.pinClaimed.length ≤ pin → fails .ePinRange) ∧
    (s.led.state = .uninit → pin < s.pinClaimed.length → clockBad → fails .eClock) ∧
    (s.led.state = .uninit → ¬ clockBad → s.pinClaimed[pin]? = some true → fails .ePinBusy) ∧
    (s.led.state = .uninit → ¬ clockBad → s.pinClaimed[pin]? = some false →
      (∀ claimed ∈ s.chanClaimed, claimed = true) → fails .eNoChan)

/-- SET_COLOR and SET_RGB with room in the queue push the word green, red, blue, eight zero bits, and answer OK; they are
the same for the same three bytes, which stand in the same places of the two headers (R98, R99). -/
def Obligations.PixelPushed : Prop :=
  (∀ (r g b : BitVec 8) (ws : List Word),
    decodePacket ((0x11#8 ++ r ++ g ++ b : Word) :: ws) = .instr (.setColor (r ++ g ++ b)) ws ∧
    decodePacket ((0x12#8 ++ r ++ g ++ b : Word) :: ws) = .instr (.setRgb r g b) ws) ∧
  ∀ (s : State) (r g b : BitVec 8), s.led.state = .running → s.led.txq.length < s.par.txqDepth →
    let t := { s with
      led := { s.led with txq := s.led.txq ++ [(g ++ r ++ b ++ 0#8 : Word)] },
      port := answered s.port .ok [] }
    exec (.setColor (r ++ g ++ b)) s = .next t ∧ exec (.setRgb r g b) s = .next t

/-- While the transmit queue is full the four pushing commands hold: they stay pending and change nothing else (R15, R141
to R144). -/
def Obligations.FullQueueHolds : Prop :=
  ∀ (s : State) (i : Instr), needsLed i = true → s.led.state = .running → s.led.txq.length = s.par.txqDepth →
    ((∃ rgb, i = .fill rgb) ∨ i = .clear → s.port.idx < s.led.count.toNat) →
    exec i s = .next { s with port := held s.port i }

/-- One elementary push of FILL and CLEAR: a push with room, the answer OK with the last one; with no LEDs the answer at
once (R143, R144). That each push is one host step, and that the answer comes in the step of the last, is the model's reading
of R15 (log 10, DEDUCED). -/
def Obligations.FillLinePushes : Prop :=
  ∀ (s : State) (r g b : BitVec 8), s.led.state = .running →
    let pushed (w : Word) := { s.led with txq := s.led.txq ++ [w] }
    let color : Word := g ++ r ++ b ++ 0#8
    (s.led.count.toNat ≤ s.port.idx →
      exec (.fill (r ++ g ++ b)) s = .next { s with port := answered s.port .ok [] } ∧
      exec .clear s = .next { s with port := answered s.port .ok [] }) ∧
    (s.port.idx + 1 = s.led.count.toNat → s.led.txq.length < s.par.txqDepth →
      exec (.fill (r ++ g ++ b)) s = .next { s with led := pushed color, port := answered s.port .ok [] } ∧
      exec .clear s = .next { s with led := pushed 0#32, port := answered s.port .ok [] }) ∧
    (s.port.idx + 1 < s.led.count.toNat → s.led.txq.length < s.par.txqDepth →
      exec (.fill (r ++ g ++ b)) s =
        .next { s with led := pushed color, port := advanced s.port (.fill (r ++ g ++ b)) [] } ∧
      exec .clear s = .next { s with led := pushed 0#32, port := advanced s.port .clear [] })

/-- A whole FILL: from an IDLE port, with room for all `led.count` words and no LED tick in between, `led.count` host turns
push the word that many times and answer OK once (R143). That there are as many host turns as pushes is the model's reading of
R15 (log 10, DEDUCED). A run with holds, and CLEAR, go by FillLinePushes and FullQueueHolds, push by push. -/
def Obligations.WholeFillPushesCountWords : Prop :=
  ∀ (s : State) (r g b : BitVec 8) (rest : List Word), s.led.state = .running →
    s.port.pending = none → s.port.idx = 0 → s.port.emitted = [] →
    s.port.incoming = (0x13#8 ++ r ++ g ++ b : Word) :: rest → 0 < s.led.count.toNat →
    s.led.txq.length + s.led.count.toNat ≤ s.par.txqDepth →
    ticks .host s.led.count.toNat s = some { s with
      led := { s.led with txq := s.led.txq ++ List.replicate s.led.count.toNat (g ++ r ++ b ++ 0#8 : Word) },
      port := answered { s.port with incoming := rest } .ok [],
      env := { s.env with turns := s.env.turns + s.led.count.toNat } }

/-! ## Audio commands -/

/-- AUD_INIT with a legal configuration, free pins and a free channel claims them, fills the binding, and starts the
channel at step 0 of the program for its width, with an empty queue and BCLK and WS low (R170). -/
def Obligations.AudInitCommits : Prop :=
  ∀ (s : State) (ch : Nat) (rate : SampleRate) (w : SampleWidth), s.aud.state = .uninit →
    s.cfg.audRateHz.toNat = rate.hz → s.cfg.audBits.toNat = w.bits →
    s.cfg.audWsPin.toNat = s.cfg.audClkPin.toNat + 1 → s.cfg.audDataPin.toNat = s.cfg.audWsPin.toNat + 1 →
    s.pinClaimed[s.cfg.audClkPin.toNat]? = some false → s.pinClaimed[s.cfg.audWsPin.toNat]? = some false →
    s.pinClaimed[s.cfg.audDataPin.toNat]? = some false →
    s.chanClaimed[ch]? = some false → (∀ j < ch, s.chanClaimed[j]? = some true) →
    (s.cfg.audDivOvr = 0#32 ∧ s.cfg.sysClkHz ≠ 0#32 ∨
      s.cfg.audDivOvr ≠ 0#32 ∧ fpIsFinite s.cfg.audDivOvr ∧ 0 < fpValue s.cfg.audDivOvr) →
    exec .audInit s = .next { s with
      chanClaimed := s.chanClaimed.set ch true,
      pinClaimed := ((s.pinClaimed.set s.cfg.audClkPin.toNat true).set s.cfg.audWsPin.toNat true).set
        s.cfg.audDataPin.toNat true,
      aud := { s.aud with
        state := .running, chan := ch, clkPin := s.cfg.audClkPin.toNat, wsPin := s.cfg.audWsPin.toNat,
        dataPin := s.cfg.audDataPin.toNat, w := w, rate := rate,
        div := if s.cfg.audDivOvr ≠ 0#32 then s.cfg.audDivOvr
          else dividerWord s.par s.cfg.sysClkHz.toNat (rate.hz * w.bits * 2) 2,
        rxq := [], isr := 0#32, isrCnt := 0, cnt := w.bits - 2, pc := 0, bclk := some false, ws := some false,
        prog := audioProgram w },
      port := answered s.port .ok [] }

/-- AUD_INIT reports the first failing check of R234 and no other, and changes nothing. -/
def Obligations.AudInitReportsFirstFailure : Prop :=
  ∀ s : State,
    let fails (st : Status) := exec .audInit s = .next { s with port := answered s.port st [] }
    let clk := s.cfg.audClkPin.toNat
    let ws := s.cfg.audWsPin.toNat
    let data := s.cfg.audDataPin.toNat
    let rateBad := s.cfg.audRateHz.toNat ∉ [8000, 16000, 32000, 44100, 48000, 88200, 96000]
    let widthBad := s.cfg.audBits.toNat ∉ [16, 24, 32]
    let pinsBad := ws ≠ clk + 1 ∨ data ≠ ws + 1
    let rangeBad := s.pinClaimed.length ≤ data
    let clockBad := s.cfg.audDivOvr = 0#32 ∧ s.cfg.sysClkHz = 0#32 ∨
      s.cfg.audDivOvr ≠ 0#32 ∧ ¬ (fpIsFinite s.cfg.audDivOvr ∧ 0 < fpValue s.cfg.audDivOvr)
    let busy := s.pinClaimed[clk]? = some true ∨ s.pinClaimed[ws]? = some true ∨ s.pinClaimed[data]? = some true
    (s.aud.state = .running → fails .eAlready) ∧
    (s.aud.state = .uninit → rateBad → fails .eRate) ∧
    (s.aud.state = .uninit → ¬ rateBad → widthBad → fails .eWidth) ∧
    (s.aud.state = .uninit → ¬ rateBad → ¬ widthBad → pinsBad → fails .ePins) ∧
    (s.aud.state = .uninit → ¬ rateBad → ¬ widthBad → ¬ pinsBad → rangeBad → fails .ePinRange) ∧
    (s.aud.state = .uninit → ¬ rateBad → ¬ widthBad → ¬ pinsBad → ¬ rangeBad → clockBad → fails .eClock) ∧
    (s.aud.state = .uninit → ¬ rateBad → ¬ widthBad → ¬ pinsBad → ¬ rangeBad → ¬ clockBad → busy → fails .ePinBusy) ∧
    (s.aud.state = .uninit → ¬ rateBad → ¬ widthBad → ¬ pinsBad → ¬ rangeBad → ¬ clockBad → ¬ busy →
      (∀ claimed ∈ s.chanClaimed, claimed = true) → fails .eNoChan)

/-- IS_READABLE answers 1 exactly when two entries are queued and GET_FIFO_LEVEL the number of entries, without a side
effect; both answer E_NOTINIT while the driver is UNINIT and are illegal with `a` not zero (R171, R177). -/
def Obligations.LevelReadsAnswer : Prop :=
  bareHeader 0x21#8 .isReadable ∧ bareHeader 0x27#8 .getFifoLevel ∧
  ∀ s : State,
    let answers (i : Instr) (st : Status) (data : List Word) := exec i s = .next { s with port := answered s.port st data }
    (s.aud.state = .uninit → answers .isReadable .eNotInit [] ∧ answers .getFifoLevel .eNotInit []) ∧
    (s.aud.state = .running → answers .getFifoLevel .ok [BitVec.ofNat 32 s.aud.rxq.length]) ∧
    (s.aud.state = .running → 2 ≤ s.aud.rxq.length → answers .isReadable .ok [1#32]) ∧
    (s.aud.state = .running → s.aud.rxq.length < 2 → answers .isReadable .ok [0#32])

/-- The single reads of a queued frame pop both words, the first the left one, and answer the signed samples: the top W
bits of each raw word, sign-extended; READ_MONO drops the right one (R103, R104, R172 to R174). -/
def Obligations.StereoReadsPopOneFrame : Prop :=
  ∀ (s : State) (rawL rawR : Word) (rest : List Word), s.aud.state = .running → s.aud.rxq = rawL :: rawR :: rest →
    ∃ l r : Word,
      l.toInt = rawL.toInt / 2 ^ (32 - s.aud.w.bits) ∧ r.toInt = rawR.toInt / 2 ^ (32 - s.aud.w.bits) ∧
      (let popped := { s.aud with rxq := rest }
       exec .readStereo s = .next { s with aud := popped, port := answered s.port .ok [l, r] } ∧
       exec .readStereoNb s = .next { s with aud := popped, port := answered s.port .ok [l, r] } ∧
       exec .readMono s = .next { s with aud := popped, port := answered s.port .ok [l] })

/-- With fewer than two entries no read pops anything: the blocking reads hold, the non-blocking reads answer at once,
NO_DATA or the count and the words read so far (R172 to R176). -/
def Obligations.ShortQueueReads : Prop :=
  ∀ (s : State) (n : BitVec 24), s.aud.state = .running → s.aud.rxq.length < 2 →
    exec .readStereo s = .next { s with port := held s.port .readStereo } ∧
    exec .readMono s = .next { s with port := held s.port .readMono } ∧
    (s.port.idx < n.toNat → exec (.readSamples n) s = .next { s with port := held s.port (.readSamples n) }) ∧
    exec .readStereoNb s = .next { s with port := answered s.port .noData [] } ∧
    exec (.readSamplesAvail n) s =
      .next { s with port := answered s.port .ok (BitVec.ofNat 32 s.port.idx :: s.port.emitted) }

/-- One elementary read of READ_SAMPLES and READ_SAMPLES_AVAIL: a frame popped and its two samples emitted, the answer with
the last one, at once for N = 0 (R175, R176). That each read is one host step, and that the answer comes in the step of the
last, is the model's reading of R15 (log 10, DEDUCED). -/
def Obligations.BufferReadLine : Prop :=
  ∀ (s : State) (n : BitVec 24), s.aud.state = .running →
    (n.toNat ≤ s.port.idx →
      exec (.readSamples n) s = .next { s with port := answered s.port .ok s.port.emitted } ∧
      exec (.readSamplesAvail n) s =
        .next { s with port := answered s.port .ok (BitVec.ofNat 32 s.port.idx :: s.port.emitted) }) ∧
    (∀ (rawL rawR : Word) (rest : List Word), s.aud.rxq = rawL :: rawR :: rest → s.port.idx < n.toNat →
      ∃ l r : Word,
        l.toInt = rawL.toInt / 2 ^ (32 - s.aud.w.bits) ∧ r.toInt = rawR.toInt / 2 ^ (32 - s.aud.w.bits) ∧
        (let popped := { s.aud with rxq := rest }
         let words := s.port.emitted ++ [l, r]
         (s.port.idx + 1 = n.toNat →
           exec (.readSamples n) s = .next { s with aud := popped, port := answered s.port .ok words } ∧
           exec (.readSamplesAvail n) s =
             .next { s with aud := popped, port := answered s.port .ok (BitVec.ofNat 32 n.toNat :: words) }) ∧
         (s.port.idx + 1 < n.toNat →
           exec (.readSamples n) s =
             .next { s with aud := popped, port := advanced s.port (.readSamples n) [l, r] } ∧
           exec (.readSamplesAvail n) s =
             .next { s with aud := popped, port := advanced s.port (.readSamplesAvail n) [l, r] })))

/-- A whole READ_SAMPLES N: from an IDLE port, with N frames queued and no audio tick in between, N host turns pop them all
and answer their 2N samples in capture order (R175). That there are as many host turns as reads is the model's reading of R15
(log 10, DEDUCED). A run with holds goes by BufferReadLine and ShortQueueReads, read by read. -/
def Obligations.WholeReadSamplesReturnsFrames : Prop :=
  ∀ (s : State) (n : BitVec 24) (rest : List Word), s.aud.state = .running →
    s.port.pending = none → s.port.idx = 0 → s.port.emitted = [] →
    s.port.incoming = (0x25#8 ++ n : Word) :: rest → 0 < n.toNat → 2 * n.toNat ≤ s.aud.rxq.length →
    ticks .host n.toNat s = some { s with
      aud := { s.aud with rxq := s.aud.rxq.drop (2 * n.toNat) },
      port := answered { s.port with incoming := rest } .ok (convertedWords s.aud.w (s.aud.rxq.take (2 * n.toNat))),
      env := { s.env with turns := s.env.turns + n.toNat } }

/-- The raw word of a sample holds its W bits left-aligned, and decoding it gives the sample back, for every width and every
value in its range (R112). -/
def Obligations.SampleRoundTrip : Prop :=
  ∀ (w : SampleWidth) (v : Int), -(2 ^ (w.bits - 1)) ≤ v → v ≤ 2 ^ (w.bits - 1) - 1 →
    ((encodeSample v w).toNat : Int) = v % 2 ^ w.bits * 2 ^ (32 - w.bits) ∧ sampleOf (encodeSample v w) w = v

/-! ## Utilities -/

/-- SAMPLE_TO_MONO, from its packet to its answer: the exact sum of the two samples halved toward zero, with no wrap
(R211). -/
def Obligations.MonoIsTruncatedAverage : Prop :=
  pairHeader 0x30#8 .sampleToMono ∧ ∀ (s : State) (left right : Word), ∃ m : Word,
    exec (.sampleToMono left right) s = .next { s with port := answered s.port .ok [m] } ∧
    m.toInt = Int.tdiv (left.toInt + right.toInt) 2

/-- SAMPLE_TO_FLOAT, from its packet to its answer: E_ARG for a width other than 16, 24 and 32, else the sample over the
largest positive sample within FP_TOL (at least 2^-23), not clamped, the largest as exactly 1.0 and 0 as +0.0 under every
rounding, and the least sample of each width as the rule writes it under the default one (R212); the quotient itself wherever
it is a floating-point value (R126, 92_eei_decisions.md D17; how the two agree: log 21, DEDUCED). -/
def Obligations.FloatIsNormalisedSample : Prop :=
  byteHeader 0x31#8 .sampleToFloat ∧ ∀ (s : State) (w : BitVec 8) (x : Word),
    (w.toNat ∉ [16, 24, 32] → exec (.sampleToFloat w x) s = .next { s with port := answered s.port .eArg [] }) ∧
    (w.toNat ∈ [16, 24, 32] → 0 < s.par.fpTolDen → s.par.fpTolDen ≤ s.par.fpTolNum * 2 ^ 23 →
      ∃ d : Word, exec (.sampleToFloat w x) s = .next { s with port := answered s.port .ok [d] } ∧
        (let q : ℝ := (x.toInt : ℝ) / (2 ^ (w.toNat - 1) - 1)
         fpIsFinite d ∧ |fpValue d - q| ≤ (s.par.fpTolNum : ℝ) / s.par.fpTolDen * |q| ∧
         (isBinary32 q → fpValue d = q) ∧
         (x = 0#32 → d = 0#32) ∧ (x.toInt = 2 ^ (w.toNat - 1) - 1 → d = 0x3F800000#32) ∧
         (s.par.rounding = .nearestEven → x.toInt = -2 ^ (w.toNat - 1) →
           d = if w.toNat = 16 then 0xBF800100#32 else if w.toNat = 24 then 0xBF800001#32 else 0xBF800000#32)))

/-- GET_PEAK, from its packet to its answer: the mathematical absolute values as unsigned words, 2^31 for the least sample
(R213). -/
def Obligations.PeakIsAbsoluteValue : Prop :=
  pairHeader 0x32#8 .getPeak ∧ ∀ (s : State) (left right : Word), ∃ l r : Word,
    exec (.getPeak left right) s = .next { s with port := answered s.port .ok [l, r] } ∧
    (l.toNat : Int) = |left.toInt| ∧ (r.toNat : Int) = |right.toInt|

/-- GET_RMS, from its packet to its answer: E_ARG for an empty buffer, else the root mean square of each channel within
FP_TOL (at least 2^-23), exact where it is a floating-point value, never negative, exactly +0.0 for a channel of zeros (R214). -/
def Obligations.RmsIsRootMeanSquare : Prop :=
  (∀ (samples : List (Word × Word)) (ws : List Word), samples.length < 2 ^ 24 →
    decodePacket ((0x33#8 ++ BitVec.ofNat 24 samples.length : Word) :: (samples.flatMap (fun p => [p.1, p.2]) ++ ws)) =
      .instr (.getRms samples) ws) ∧
  ∀ (s : State) (samples : List (Word × Word)),
    (samples = [] → exec (.getRms samples) s = .next { s with port := answered s.port .eArg [] }) ∧
    (samples ≠ [] → samples.length < 2 ^ 24 → 0 < s.par.fpTolDen → s.par.fpTolDen ≤ s.par.fpTolNum * 2 ^ 23 →
      ∃ l r : Word, exec (.getRms samples) s = .next { s with port := answered s.port .ok [l, r] } ∧
        (let rms (channel : List Word) : ℝ :=
           Real.sqrt ((channel.map fun x => (x.toInt : ℝ) ^ 2).sum / channel.length)
         let within (d : Word) (channel : List Word) : Prop :=
           fpIsFinite d ∧ |fpValue d - rms channel| ≤ (s.par.fpTolNum : ℝ) / s.par.fpTolDen * rms channel ∧
             (isBinary32 (rms channel) → fpValue d = rms channel) ∧ 0 ≤ fpValue d ∧
             ((∀ x ∈ channel, x = 0#32) → d = 0#32)
         within l (samples.map Prod.fst) ∧ within r (samples.map Prod.snd)))

/-! ## LED program -/

/-- SEQ.SHIFT_OUT with every operand: the side-band is driven; the next bit leaves the register, reloaded from the queue
when 24 bits have gone, and the channel goes to the next step; with nothing to send the tick is a stall (R16, R107, R151;
that the count field and side bit 12 are not read is the model's, log 11). -/
def Obligations.ShiftOutSendsNextBit : Prop :=
  ∀ (s : State) (side : BitVec 2) (delay : BitVec 3) (count : BitVec 8),
    let nextPc := if s.led.pc + 1 < s.led.prog.length then s.led.pc + 1 else 0
    (s.led.osrCnt ≠ 24 → exec (.seqShiftOut side delay count) s = .next { s with led := { s.led with
      out := some side[0], bitv := s.led.osr[31], osr := s.led.osr <<< 1, osrCnt := s.led.osrCnt + 1,
      pc := nextPc, dly := delay.toNat } }) ∧
    (∀ (word : Word) (rest : List Word), s.led.osrCnt = 24 → s.led.txq = word :: rest →
      exec (.seqShiftOut side delay count) s = .next { s with led := { s.led with
        out := some side[0], txq := rest, bitv := word[31], osr := word <<< 1, osrCnt := 1,
        pc := nextPc, dly := delay.toNat } }) ∧
    (s.led.osrCnt = 24 → s.led.txq = [] →
      exec (.seqShiftOut side delay count) s = .next { s with led := { s.led with out := some side[0] } })

/-- SEQ.NOP, SEQ.JUMP and SEQ.BRZ with every operand: the side-band, the delay and the next step, taken by BRZ exactly when
`led.bitv` = 0 (R107, R152 to R154; that side bit 12 is not driven is the model's, log 11). -/
def Obligations.LedBranchesGoWhereTheySay : Prop :=
  ∀ (s : State) (side : BitVec 2) (delay : BitVec 3) (operand : BitVec 8),
    let nextPc := if s.led.pc + 1 < s.led.prog.length then s.led.pc + 1 else 0
    let goes (pc : Nat) := { s with led := { s.led with out := some side[0], pc := pc, dly := delay.toNat } }
    exec (.seqNop side delay operand) s = .next (goes nextPc) ∧
    exec (.seqJump side delay operand) s = .next (goes operand.toNat) ∧
    (s.led.bitv = false → exec (.seqBrz side delay operand) s = .next (goes operand.toNat)) ∧
    (s.led.bitv = true → exec (.seqBrz side delay operand) s = .next (goes nextPc))

/-- The LED program's table, tick by tick: what each of the four steps does, the stall of step 0 among them (R151,
R152; the ticks of R153 and R154 too). -/
def Obligations.LedProgramTable : Prop :=
  ∀ s : State, nextAgent s = .led → s.led.state = .running → s.led.dly = 0 → s.led.prog = ledProgram →
    let goes (l : LedState) := step s = .next { s with led := l, env := turnTaken s.env }
    (s.led.pc = 0 → s.led.osrCnt ≠ 24 → goes { s.led with
      out := some false, bitv := s.led.osr[31], osr := s.led.osr <<< 1, osrCnt := s.led.osrCnt + 1, pc := 1, dly := 1 }) ∧
    (∀ (word : Word) (rest : List Word), s.led.pc = 0 → s.led.osrCnt = 24 → s.led.txq = word :: rest →
      goes { s.led with
        out := some false, txq := rest, bitv := word[31], osr := word <<< 1, osrCnt := 1, pc := 1, dly := 1 }) ∧
    (s.led.pc = 0 → s.led.osrCnt = 24 → s.led.txq = [] → goes { s.led with out := some false }) ∧
    (s.led.pc = 1 → s.led.bitv = false → goes { s.led with out := some true, pc := 3, dly := 2 }) ∧
    (s.led.pc = 1 → s.led.bitv = true → goes { s.led with out := some true, pc := 2, dly := 2 }) ∧
    (s.led.pc = 2 → goes { s.led with out := some true, pc := 0, dly := 4 }) ∧
    (s.led.pc = 3 → goes { s.led with out := some false, pc := 0, dly := 4 })

/-- The waveform of one symbol: from a step 0 that does not stall, LEDOUT is low for two ticks, high for three, then for
five ticks high for a one and low for a zero, and the next step 0 is attempted ten ticks later (R156). -/
def Obligations.SymbolWaveform : Prop :=
  ∀ (s : State) (bit : Bool), s.led.state = .running → s.led.prog = ledProgram → s.led.pc = 0 → s.led.dly = 0 →
    comingBit s.led = some bit →
    (∀ k < 10, ∃ t, ticks .led (k + 1) s = some t ∧ t.led.out = some (symbolLevel bit k)) ∧
    (∃ t, ticks .led 10 s = some t ∧ t.led.pc = 0 ∧ t.led.dly = 0 ∧
      t.led.osrCnt = (if s.led.osrCnt = 24 then 1 else s.led.osrCnt + 1) ∧
      t.led.osr = (if s.led.osrCnt = 24 then s.led.txq.headD 0#32 <<< 1 else s.led.osr <<< 1) ∧
      t.led.txq = (if s.led.osrCnt = 24 then s.led.txq.tail else s.led.txq))

/-- One pixel word takes 240 ticks and sends its bits 31 down to 8: symbol `n` of a word taken at tick 0 is high at its
tick `k` as its bit `31 − n` says (R68, R101, R156). -/
def Obligations.PixelWaveform : Prop :=
  ∀ (s : State) (word : Word) (rest : List Word), s.led.state = .running → s.led.prog = ledProgram → s.led.pc = 0 →
    s.led.dly = 0 → s.led.osrCnt = 24 → s.led.txq = word :: rest →
    (∀ n < 24, ∀ k < 10, ∃ t, ticks .led (10 * n + k + 1) s = some t ∧
      t.led.out = some (symbolLevel (word.getLsbD (31 - n)) k)) ∧
    (∃ t, ticks .led 240 s = some t ∧ t.led.pc = 0 ∧ t.led.dly = 0 ∧ t.led.osrCnt = 24 ∧ t.led.txq = rest)

/-- A stalled channel's tick changes only the pins its side-band drives, for ever until the other end of the queue moves
(R157, R202, R245). -/
def Obligations.StalledTickDrivesOnlyPins : Prop :=
  (∀ s : State, ledStalled s = true → s.led.prog = ledProgram →
    tick .led s = .next { s with led := { s.led with out := some false }, env := oneTurn s.env }) ∧
  (∀ s : State, audStalled s = true → s.aud.prog = audioProgram s.aud.w →
    tick .audio s = .next { s with
      aud := { s.aud with bclk := some false, ws := some (decide (s.aud.pc = 2)) }, env := oneTurn s.env })

/-! ## Audio program -/

/-- SEQ.SAMPLE with every operand: the side-band is driven; a bit is drawn into the register, the W-th pushes the word and
empties the register, and the channel goes to the next step; with the push due and the queue full the tick is a stall that
takes no bit (R16, R107, R198; that the count and delay fields are not read is the model's, log 11). -/
def Obligations.SampleTakesOneBit : Prop :=
  ∀ (s : State) (side : BitVec 2) (delay : BitVec 3) (count : BitVec 8),
    let bit := (s.env.dataIn.head?).getD (Config.dataBit s.env.bitDraws)
    let drawn := { s.env with dataIn := s.env.dataIn.tail, bitDraws := s.env.bitDraws + 1 }
    let isr := (s.aud.isr <<< 1) ||| (if bit then 1#32 else 0#32)
    let nextPc := if s.aud.pc + 1 < s.aud.prog.length then s.aud.pc + 1 else 0
    let W := s.aud.w.bits
    (s.aud.isrCnt = W - 1 → s.aud.rxq.length = 8 → exec (.seqSample side delay count) s = .next { s with
      aud := { s.aud with bclk := some side[0], ws := some side[1] } }) ∧
    (s.aud.isrCnt = W - 1 → s.aud.rxq.length ≠ 8 → exec (.seqSample side delay count) s = .next { s with
      aud := { s.aud with
        bclk := some side[0], ws := some side[1], isr := 0#32, isrCnt := 0,
        rxq := s.aud.rxq ++ [isr <<< (32 - W)], pc := nextPc },
      env := drawn }) ∧
    (s.aud.isrCnt ≠ W - 1 → exec (.seqSample side delay count) s = .next { s with
      aud := { s.aud with
        bclk := some side[0], ws := some side[1], isr := isr, isrCnt := s.aud.isrCnt + 1, pc := nextPc },
      env := drawn })

/-- SEQ.LOOP and SEQ.SET_CNT with every operand: the side-band, the loop counter and the next step (R107, R191, R193, R195,
R197; that the delay field is not read is the model's, log 11). -/
def Obligations.LoopCountsDown : Prop :=
  ∀ (s : State) (side : BitVec 2) (delay : BitVec 3) (operand : BitVec 8),
    let nextPc := if s.aud.pc + 1 < s.aud.prog.length then s.aud.pc + 1 else 0
    let goes (cnt pc : Nat) :=
      { s with aud := { s.aud with bclk := some side[0], ws := some side[1], cnt := cnt, pc := pc } }
    (s.aud.cnt ≠ 0 → exec (.seqLoop side delay operand) s = .next (goes (s.aud.cnt - 1) operand.toNat)) ∧
    (s.aud.cnt = 0 → exec (.seqLoop side delay operand) s = .next (goes 0 nextPc)) ∧
    exec (.seqSetCnt side delay operand) s = .next (goes operand.toNat nextPc)

/-- The audio program's clock steps, tick by tick: BCLK up, WS as the table says, the loop counter decremented or reloaded
with W − 2, and the next step (R188, R191, R193, R195, R197). -/
def Obligations.AudioClockSteps : Prop :=
  ∀ s : State, nextAgent s = .audio → s.aud.state = .running → s.aud.prog = audioProgram s.aud.w →
    let goes (ws : Bool) (cnt pc : Nat) := step s = .next { s with
      aud := { s.aud with bclk := some true, ws := some ws, cnt := cnt, pc := pc }, env := turnTaken s.env }
    (s.aud.pc = 1 → s.aud.cnt ≠ 0 → goes false (s.aud.cnt - 1) 0) ∧ (s.aud.pc = 1 → s.aud.cnt = 0 → goes false 0 2) ∧
    (s.aud.pc = 3 → goes true (s.aud.w.bits - 2) 4) ∧
    (s.aud.pc = 5 → s.aud.cnt ≠ 0 → goes true (s.aud.cnt - 1) 4) ∧ (s.aud.pc = 5 → s.aud.cnt = 0 → goes true 0 6) ∧
    (s.aud.pc = 7 → goes false (s.aud.w.bits - 2) 0)

/-- One phase captures one word: from the start of a phase, with room in the queue and the DATA bits `bits` to come, 2W
ticks push the word whose bit 31 is the first of them, and end at the start of the other phase (R69, R102, R200). -/
def Obligations.PhaseCapturesWord : Prop :=
  ∀ (s : State) (bits rest : List Bool), s.aud.state = .running → s.aud.prog = audioProgram s.aud.w →
    s.aud.pc = 0 ∨ s.aud.pc = 4 → s.aud.cnt = s.aud.w.bits - 2 → s.aud.isr = 0#32 → s.aud.isrCnt = 0 →
    s.aud.rxq.length < 8 → s.env.dataIn = bits ++ rest → bits.length = s.aud.w.bits →
    ticks .audio (2 * s.aud.w.bits) s = some { s with
      aud := { s.aud with
        rxq := s.aud.rxq ++ [rawOfBits bits], pc := if s.aud.pc = 0 then 4 else 0, bclk := some true,
        ws := some (decide (s.aud.pc = 0)) },
      env := { s.env with
        dataIn := rest, bitDraws := s.env.bitDraws + s.aud.w.bits, turns := s.env.turns + 2 * s.aud.w.bits } }

/-- The waveforms of one frame without a stall: tick `k` of the 4W has BCLK = 1 exactly when `k` is odd, DATA is sampled in
every even tick and in no other, WS = 1 exactly from tick 2(W − 1) to tick 4W − 3, and the frame ends where the next one
begins (R105, R201). -/
def Obligations.FrameWaveform : Prop :=
  ∀ (s : State), s.aud.state = .running → s.aud.prog = audioProgram s.aud.w → s.aud.pc = 0 →
    s.aud.cnt = s.aud.w.bits - 2 → s.aud.isr = 0#32 → s.aud.isrCnt = 0 → s.aud.rxq.length + 2 ≤ 8 →
    (∀ k < 4 * s.aud.w.bits, ∃ t, ticks .audio (k + 1) s = some t ∧ t.aud.bclk = some (decide (k % 2 = 1)) ∧
      t.aud.ws = some (decide (2 * (s.aud.w.bits - 1) ≤ k ∧ k < 4 * s.aud.w.bits - 2)) ∧
      t.env.bitDraws = s.env.bitDraws + k / 2 + 1) ∧
    ∃ t, ticks .audio (4 * s.aud.w.bits) s = some t ∧ t.aud.pc = 0 ∧ t.aud.cnt = s.aud.w.bits - 2 ∧
      t.aud.isr = 0#32 ∧ t.aud.isrCnt = 0 ∧ t.aud.rxq.length = s.aud.rxq.length + 2

/-! ## Invariants -/

/-- The invariant holds of the reset state, whatever the open parameters. -/
def Obligations.ResetMeetsInvariant : Prop :=
  ∀ (par : RunParams) (nChannels nGpio ext : Nat) (extPins : List Nat),
    Inv (State.resetWith par nChannels nGpio ext extPins)

/-- Every step keeps the LED driver's ranges, its program and its queue within TXQ_DEPTH (R23, R27, R28, R31, R76). -/
def Obligations.StepKeepsLedInv : Prop :=
  ∀ s t : State, LedInv s → PortInv s → step s = .next t → LedInv t

/-- Every step keeps the audio driver's phase, frame alignment and queue within 8 entries (R25, R26, R35, R72, R76). -/
def Obligations.StepKeepsAudioInv : Prop :=
  ∀ s t : State, AudioInv s → PortInv s → step s = .next t → AudioInv t

/-- Every step keeps the claims of the two drivers apart (R37, R243). -/
def Obligations.StepKeepsArenaInv : Prop :=
  ∀ s t : State, ArenaInv s → step s = .next t → ArenaInv t

/-- Every step keeps the port's pending command within its bounds (R38, R246). -/
def Obligations.StepKeepsPortInv : Prop :=
  ∀ s t : State, PortInv s → step s = .next t → PortInv t

/-- From a state that meets the drivers' invariants no step stops the machine, whoever's turn it is. -/
def Obligations.InvariantStepsOn : Prop :=
  ∀ s : State, LedInv s → AudioInv s → StepsOn s

/-- No step takes a driver out of RUNNING or changes a RUNNING driver's binding, whatever is written to the configuration
(R30, R34, R244, R270). -/
def Obligations.RunningBindingIsFixed : Prop :=
  ∀ s t : State, step s = .next t →
    (s.led.state = .running → t.led.state = .running ∧ t.led.chan = s.led.chan ∧ t.led.pin = s.led.pin ∧
      t.led.count = s.led.count ∧ t.led.div = s.led.div) ∧
    (s.aud.state = .running → t.aud.state = .running ∧ t.aud.chan = s.aud.chan ∧ t.aud.clkPin = s.aud.clkPin ∧
      t.aud.wsPin = s.aud.wsPin ∧ t.aud.dataPin = s.aud.dataPin ∧ t.aud.w = s.aud.w ∧ t.aud.rate = s.aud.rate ∧
      t.aud.div = s.aud.div ∧ t.aud.prog = s.aud.prog)

/-- No step clears a claim bit, or changes how many there are (R37, R243); and "The block never drives or samples a pin it
has not claimed" (R243): LEDOUT, BCLK and WS are the levels of a RUNNING driver's pins, DATA is not driven, every driven pin
and the sampled one are claimed, and while both drivers are UNINIT no pin is driven (R32, R36, R65). -/
def Obligations.ClaimsAreNeverReleased : Prop :=
  (∀ s t : State, step s = .next t →
    t.chanClaimed.length = s.chanClaimed.length ∧ t.pinClaimed.length = s.pinClaimed.length ∧
    (∀ i : Nat, s.chanClaimed[i]? = some true → t.chanClaimed[i]? = some true) ∧
    (∀ n : Nat, s.pinClaimed[n]? = some true → t.pinClaimed[n]? = some true)) ∧
  (∀ s : State, ArenaInv s →
    (s.led.state = .running → drivenLevel s s.led.pin = s.led.out) ∧
    (s.aud.state = .running → drivenLevel s s.aud.clkPin = s.aud.bclk ∧ drivenLevel s s.aud.wsPin = s.aud.ws ∧
      drivenLevel s s.aud.dataPin = none ∧ s.pinClaimed[s.aud.dataPin]? = some true) ∧
    (s.led.state = .uninit → s.aud.state = .uninit → ∀ n, drivenLevel s n = none) ∧
    ∀ n, drivenLevel s n ≠ none → s.pinClaimed[n]? = some true)

/-- The two channels are independent: an LED tick and an audio tick lead to the same state in either order (R80). -/
def Obligations.ChannelTicksCommute : Prop :=
  ∀ s : State, LedInv s → AudioInv s →
    ∃ l a t, tick .led s = .next l ∧ tick .audio s = .next a ∧ tick .audio l = .next t ∧ tick .led a = .next t
end

