-- ==== Sys2Proof/Laws/Decode.lean ====
section
/-! SUPPORT. The fields of headers and microwords put together from their fields, and the shape of the packet decoder. -/

namespace Sys2Proof

/-! ## Fields of what was assembled -/

/-- A field of `x ++ y` that lies in `x`. -/
theorem extract_append_high {n m : Nat} (x : BitVec n) (y : BitVec m) {k len : Nat} (h : m ≤ k) :
    (x ++ y).extractLsb' k len = x.extractLsb' (k - m) len := by
  apply BitVec.eq_of_getLsbD_eq
  intro i hi
  simp only [BitVec.getLsbD_extractLsb', BitVec.getLsbD_append, show ¬ k + i < m by omega, if_false]
  rw [show k + i - m = k - m + i by omega]

/-- A field of `x ++ y` that lies in `y`. -/
theorem extract_append_low {n m : Nat} (x : BitVec n) (y : BitVec m) {k len : Nat} (h : k + len ≤ m) :
    (x ++ y).extractLsb' k len = y.extractLsb' k len := by
  apply BitVec.eq_of_getLsbD_eq
  intro i hi
  simp only [BitVec.getLsbD_extractLsb', BitVec.getLsbD_append, show k + i < m by omega, if_true]

/-- The field that is the whole vector. -/
theorem extract_all {n : Nat} (x : BitVec n) : x.extractLsb' 0 n = x := by
  apply BitVec.eq_of_getLsbD_eq
  intro i hi
  simp [hi]

@[simp] theorem headerOp_header (op : BitVec 8) (a : BitVec 24) : headerOp (header op a) = op :=
  (extract_append_high op a (Nat.le_refl 24)).trans (extract_all op)

@[simp] theorem headerA_header (op : BitVec 8) (a : BitVec 24) : headerA (header op a) = a :=
  (extract_append_low op a (Nat.le_refl 24)).trans (extract_all a)

/-- A header is its two fields. -/
theorem header_op_a (h : Word) : header (headerOp h) (headerA h) = h := by
  unfold headerOp headerA header
  apply BitVec.eq_of_getLsbD_eq
  intro i hi
  rw [BitVec.getLsbD_append, BitVec.getLsbD_extractLsb', BitVec.getLsbD_extractLsb']
  split
  · simp [*]
  · simp only [show i - 24 < 8 by omega, decide_true, Bool.true_and]; congr 1; omega

@[simp] theorem aHigh_zero_append (x : BitVec 8) : aHigh (0#16 ++ x : BitVec 24) = 0#16 :=
  (extract_append_high 0#16 x (Nat.le_refl 8)).trans (extract_all _)

@[simp] theorem aLow_append (y : BitVec 16) (x : BitVec 8) : aLow (y ++ x : BitVec 24) = x :=
  (extract_append_low y x (Nat.le_refl 8)).trans (extract_all x)

@[simp] theorem aMid_append (r g b : BitVec 8) : aMid (r ++ g ++ b : BitVec 24) = g :=
  (extract_append_high (r ++ g) b (Nat.le_refl 8)).trans
    ((extract_append_low r g (Nat.le_refl 8)).trans (extract_all g))

@[simp] theorem aTop_append (r g b : BitVec 8) : aTop (r ++ g ++ b : BitVec 24) = r :=
  (extract_append_high (r ++ g) b (show 8 ≤ 16 by omega)).trans
    ((extract_append_high r g (Nat.le_refl 8)).trans (extract_all r))

section Micro
variable (kind : BitVec 3) (side : BitVec 2) (delay : BitVec 3) (operand : BitVec 8)

@[simp] theorem microKind_micro : microKind (micro kind side delay operand) = kind :=
  (extract_append_high (kind ++ side ++ delay) operand (show 8 ≤ 13 by omega)).trans
    ((extract_append_high (kind ++ side) delay (show 3 ≤ 5 by omega)).trans
      ((extract_append_high kind side (Nat.le_refl 2)).trans (extract_all kind)))

@[simp] theorem microSide_micro : microSide (micro kind side delay operand) = side :=
  (extract_append_high (kind ++ side ++ delay) operand (show 8 ≤ 11 by omega)).trans
    ((extract_append_high (kind ++ side) delay (Nat.le_refl 3)).trans
      ((extract_append_low kind side (Nat.le_refl 2)).trans (extract_all side)))

@[simp] theorem microDelay_micro : microDelay (micro kind side delay operand) = delay :=
  (extract_append_high (kind ++ side ++ delay) operand (Nat.le_refl 8)).trans
    ((extract_append_low (kind ++ side) delay (Nat.le_refl 3)).trans (extract_all delay))

@[simp] theorem microOperand_micro : microOperand (micro kind side delay operand) = operand :=
  (extract_append_low (kind ++ side ++ delay) operand (Nat.le_refl 8)).trans (extract_all operand)

end Micro

/-! ## The packet decoder -/

@[simp] theorem decodePacket_nil : decodePacket [] = .incomplete := rfl

@[simp] theorem decodePacket_cons (h : Word) (ws : List Word) :
    decodePacket (h :: ws) = decodeBody (headerOp h) (headerA h) ws := rfl

@[simp] theorem pairWords_nil : pairWords [] = [] := rfl

@[simp] theorem pairWords_cons (p : Word × Word) (ps : List (Word × Word)) :
    pairWords (p :: ps) = p.1 :: p.2 :: pairWords ps := rfl

theorem pairWords_length (ps : List (Word × Word)) : (pairWords ps).length = 2 * ps.length := by
  induction ps with
  | nil => rfl
  | cons p ps ih => simp [ih]; omega

/-- The pairs read back from their words, whatever follows them. -/
theorem takePairs_pairWords (ps : List (Word × Word)) (rest : List Word) :
    takePairs ps.length (pairWords ps ++ rest) = some (ps, rest) := by
  induction ps with
  | nil => rfl
  | cons p ps ih => simp [takePairs, ih]

/-- What `takePairs` answers is `n` pairs and the words after them. -/
theorem takePairs_eq_some {n : Nat} {ws : List Word} {ps : List (Word × Word)} {rest : List Word}
    (h : takePairs n ws = some (ps, rest)) : ps.length = n ∧ ws = pairWords ps ++ rest := by
  induction n generalizing ws ps rest with
  | zero => simp only [takePairs, Option.some.injEq, Prod.mk.injEq] at h; obtain ⟨rfl, rfl⟩ := h; simp
  | succ n ih =>
    match ws with
    | [] => simp [takePairs] at h
    | [_] => simp [takePairs] at h
    | l :: r :: ws =>
      simp only [takePairs] at h
      split at h
      · rename_i ps' rest' h'
        simp only [Option.some.injEq, Prod.mk.injEq] at h
        obtain ⟨rfl, rfl⟩ := h
        obtain ⟨hlen, rfl⟩ := ih h'
        simp [hlen]
      · cases h

end Sys2Proof
end

