-- ==== Sys2Proof/Laws/State.lean ====
section
/-! SUPPORT. One lemma per field per update of State, and the field lemmas of the reset state. -/

namespace Sys2Proof.Machine

/-! ## setCfg -/

@[simp] theorem State.setCfg_par (s : State) (c : Cfg) : (s.setCfg c).par = s.par := rfl
@[simp] theorem State.setCfg_cfg (s : State) (c : Cfg) : (s.setCfg c).cfg = c := rfl
@[simp] theorem State.setCfg_chanClaimed (s : State) (c : Cfg) : (s.setCfg c).chanClaimed = s.chanClaimed := rfl
@[simp] theorem State.setCfg_pinClaimed (s : State) (c : Cfg) : (s.setCfg c).pinClaimed = s.pinClaimed := rfl
@[simp] theorem State.setCfg_led (s : State) (c : Cfg) : (s.setCfg c).led = s.led := rfl
@[simp] theorem State.setCfg_aud (s : State) (c : Cfg) : (s.setCfg c).aud = s.aud := rfl
@[simp] theorem State.setCfg_port (s : State) (c : Cfg) : (s.setCfg c).port = s.port := rfl
@[simp] theorem State.setCfg_env (s : State) (c : Cfg) : (s.setCfg c).env = s.env := rfl
@[simp] theorem State.setCfg_self (s : State) : s.setCfg s.cfg = s := rfl
@[simp] theorem State.setCfg_setCfg (s : State) (c c' : Cfg) : (s.setCfg c).setCfg c' = s.setCfg c' := rfl

/-! ## setChanClaimed -/

@[simp] theorem State.setChanClaimed_par (s : State) (l : List Bool) : (s.setChanClaimed l).par = s.par := rfl
@[simp] theorem State.setChanClaimed_cfg (s : State) (l : List Bool) : (s.setChanClaimed l).cfg = s.cfg := rfl
@[simp] theorem State.setChanClaimed_chanClaimed (s : State) (l : List Bool) : (s.setChanClaimed l).chanClaimed = l := rfl
@[simp] theorem State.setChanClaimed_pinClaimed (s : State) (l : List Bool) : (s.setChanClaimed l).pinClaimed = s.pinClaimed := rfl
@[simp] theorem State.setChanClaimed_led (s : State) (l : List Bool) : (s.setChanClaimed l).led = s.led := rfl
@[simp] theorem State.setChanClaimed_aud (s : State) (l : List Bool) : (s.setChanClaimed l).aud = s.aud := rfl
@[simp] theorem State.setChanClaimed_port (s : State) (l : List Bool) : (s.setChanClaimed l).port = s.port := rfl
@[simp] theorem State.setChanClaimed_env (s : State) (l : List Bool) : (s.setChanClaimed l).env = s.env := rfl
@[simp] theorem State.setChanClaimed_self (s : State) : s.setChanClaimed s.chanClaimed = s := rfl
@[simp] theorem State.setChanClaimed_setChanClaimed (s : State) (l l' : List Bool) : (s.setChanClaimed l).setChanClaimed l' = s.setChanClaimed l' := rfl

/-! ## setPinClaimed -/

@[simp] theorem State.setPinClaimed_par (s : State) (l : List Bool) : (s.setPinClaimed l).par = s.par := rfl
@[simp] theorem State.setPinClaimed_cfg (s : State) (l : List Bool) : (s.setPinClaimed l).cfg = s.cfg := rfl
@[simp] theorem State.setPinClaimed_chanClaimed (s : State) (l : List Bool) : (s.setPinClaimed l).chanClaimed = s.chanClaimed := rfl
@[simp] theorem State.setPinClaimed_pinClaimed (s : State) (l : List Bool) : (s.setPinClaimed l).pinClaimed = l := rfl
@[simp] theorem State.setPinClaimed_led (s : State) (l : List Bool) : (s.setPinClaimed l).led = s.led := rfl
@[simp] theorem State.setPinClaimed_aud (s : State) (l : List Bool) : (s.setPinClaimed l).aud = s.aud := rfl
@[simp] theorem State.setPinClaimed_port (s : State) (l : List Bool) : (s.setPinClaimed l).port = s.port := rfl
@[simp] theorem State.setPinClaimed_env (s : State) (l : List Bool) : (s.setPinClaimed l).env = s.env := rfl
@[simp] theorem State.setPinClaimed_self (s : State) : s.setPinClaimed s.pinClaimed = s := rfl
@[simp] theorem State.setPinClaimed_setPinClaimed (s : State) (l l' : List Bool) : (s.setPinClaimed l).setPinClaimed l' = s.setPinClaimed l' := rfl

/-! ## setLed -/

@[simp] theorem State.setLed_par (s : State) (l : LedState) : (s.setLed l).par = s.par := rfl
@[simp] theorem State.setLed_cfg (s : State) (l : LedState) : (s.setLed l).cfg = s.cfg := rfl
@[simp] theorem State.setLed_chanClaimed (s : State) (l : LedState) : (s.setLed l).chanClaimed = s.chanClaimed := rfl
@[simp] theorem State.setLed_pinClaimed (s : State) (l : LedState) : (s.setLed l).pinClaimed = s.pinClaimed := rfl
@[simp] theorem State.setLed_led (s : State) (l : LedState) : (s.setLed l).led = l := rfl
@[simp] theorem State.setLed_aud (s : State) (l : LedState) : (s.setLed l).aud = s.aud := rfl
@[simp] theorem State.setLed_port (s : State) (l : LedState) : (s.setLed l).port = s.port := rfl
@[simp] theorem State.setLed_env (s : State) (l : LedState) : (s.setLed l).env = s.env := rfl
@[simp] theorem State.setLed_self (s : State) : s.setLed s.led = s := rfl
@[simp] theorem State.setLed_setLed (s : State) (l l' : LedState) : (s.setLed l).setLed l' = s.setLed l' := rfl

/-! ## setAud -/

@[simp] theorem State.setAud_par (s : State) (a : AudioState) : (s.setAud a).par = s.par := rfl
@[simp] theorem State.setAud_cfg (s : State) (a : AudioState) : (s.setAud a).cfg = s.cfg := rfl
@[simp] theorem State.setAud_chanClaimed (s : State) (a : AudioState) : (s.setAud a).chanClaimed = s.chanClaimed := rfl
@[simp] theorem State.setAud_pinClaimed (s : State) (a : AudioState) : (s.setAud a).pinClaimed = s.pinClaimed := rfl
@[simp] theorem State.setAud_led (s : State) (a : AudioState) : (s.setAud a).led = s.led := rfl
@[simp] theorem State.setAud_aud (s : State) (a : AudioState) : (s.setAud a).aud = a := rfl
@[simp] theorem State.setAud_port (s : State) (a : AudioState) : (s.setAud a).port = s.port := rfl
@[simp] theorem State.setAud_env (s : State) (a : AudioState) : (s.setAud a).env = s.env := rfl
@[simp] theorem State.setAud_self (s : State) : s.setAud s.aud = s := rfl
@[simp] theorem State.setAud_setAud (s : State) (a a' : AudioState) : (s.setAud a).setAud a' = s.setAud a' := rfl

/-! ## setPort -/

@[simp] theorem State.setPort_par (s : State) (p : Port) : (s.setPort p).par = s.par := rfl
@[simp] theorem State.setPort_cfg (s : State) (p : Port) : (s.setPort p).cfg = s.cfg := rfl
@[simp] theorem State.setPort_chanClaimed (s : State) (p : Port) : (s.setPort p).chanClaimed = s.chanClaimed := rfl
@[simp] theorem State.setPort_pinClaimed (s : State) (p : Port) : (s.setPort p).pinClaimed = s.pinClaimed := rfl
@[simp] theorem State.setPort_led (s : State) (p : Port) : (s.setPort p).led = s.led := rfl
@[simp] theorem State.setPort_aud (s : State) (p : Port) : (s.setPort p).aud = s.aud := rfl
@[simp] theorem State.setPort_port (s : State) (p : Port) : (s.setPort p).port = p := rfl
@[simp] theorem State.setPort_env (s : State) (p : Port) : (s.setPort p).env = s.env := rfl
@[simp] theorem State.setPort_self (s : State) : s.setPort s.port = s := rfl
@[simp] theorem State.setPort_setPort (s : State) (p p' : Port) : (s.setPort p).setPort p' = s.setPort p' := rfl

/-! ## setEnv -/

@[simp] theorem State.setEnv_par (s : State) (e : Env) : (s.setEnv e).par = s.par := rfl
@[simp] theorem State.setEnv_cfg (s : State) (e : Env) : (s.setEnv e).cfg = s.cfg := rfl
@[simp] theorem State.setEnv_chanClaimed (s : State) (e : Env) : (s.setEnv e).chanClaimed = s.chanClaimed := rfl
@[simp] theorem State.setEnv_pinClaimed (s : State) (e : Env) : (s.setEnv e).pinClaimed = s.pinClaimed := rfl
@[simp] theorem State.setEnv_led (s : State) (e : Env) : (s.setEnv e).led = s.led := rfl
@[simp] theorem State.setEnv_aud (s : State) (e : Env) : (s.setEnv e).aud = s.aud := rfl
@[simp] theorem State.setEnv_port (s : State) (e : Env) : (s.setEnv e).port = s.port := rfl
@[simp] theorem State.setEnv_env (s : State) (e : Env) : (s.setEnv e).env = e := rfl
@[simp] theorem State.setEnv_self (s : State) : s.setEnv s.env = s := rfl
@[simp] theorem State.setEnv_setEnv (s : State) (e e' : Env) : (s.setEnv e).setEnv e' = s.setEnv e' := rfl

/-! ## Reset -/

section Reset
variable (par : RunParams) (nChannels nGpio ext : Nat) (extPins : List Nat)

@[simp] theorem State.resetWith_par : (State.resetWith par nChannels nGpio ext extPins).par = par := rfl
@[simp] theorem State.resetWith_cfg : (State.resetWith par nChannels nGpio ext extPins).cfg = Cfg.reset := rfl
@[simp] theorem State.resetWith_led : (State.resetWith par nChannels nGpio ext extPins).led = LedState.reset := rfl
@[simp] theorem State.resetWith_aud : (State.resetWith par nChannels nGpio ext extPins).aud = AudioState.reset := rfl
@[simp] theorem State.resetWith_port : (State.resetWith par nChannels nGpio ext extPins).port = Port.reset := rfl
@[simp] theorem State.resetWith_env : (State.resetWith par nChannels nGpio ext extPins).env = Env.reset := rfl

end Reset

end Sys2Proof.Machine
end

