-- ==== Sys2Proof/Laws/Ops.lean ====
section
/-! SUPPORT. For each shared operation, once, everything it can do. -/

namespace Sys2Proof.Machine

/-! ## The host port -/

section Port
variable (st : Status) (data words : List Word) (rest : List Word) (i : Instr) (k : Nat) (s : State)

/-- `respond` answers, empties the port, and changes nothing else. -/
theorem respond_eq : respond st data s =
    { s with port := { s.port with
        pending := none, idx := 0, emitted := [], responses := s.port.responses ++ [⟨st, data⟩] } } := rfl

@[simp] theorem respond_par : (respond st data s).par = s.par := rfl
@[simp] theorem respond_cfg : (respond st data s).cfg = s.cfg := rfl
@[simp] theorem respond_chanClaimed : (respond st data s).chanClaimed = s.chanClaimed := rfl
@[simp] theorem respond_pinClaimed : (respond st data s).pinClaimed = s.pinClaimed := rfl
@[simp] theorem respond_led : (respond st data s).led = s.led := rfl
@[simp] theorem respond_aud : (respond st data s).aud = s.aud := rfl
@[simp] theorem respond_env : (respond st data s).env = s.env := rfl
@[simp] theorem respond_incoming : (respond st data s).port.incoming = s.port.incoming := rfl
@[simp] theorem respond_pending : (respond st data s).port.pending = none := rfl
@[simp] theorem respond_idx : (respond st data s).port.idx = 0 := rfl
@[simp] theorem respond_emitted : (respond st data s).port.emitted = [] := rfl
@[simp] theorem respond_responses : (respond st data s).port.responses = s.port.responses ++ [⟨st, data⟩] := rfl

/-- Error entry is a response without data words (R236). -/
theorem raiseError_eq : raiseError st s = respond st [] s := rfl

/-- `hold` only keeps the command pending (R15). -/
theorem hold_eq : hold i s = { s with port := { s.port with pending := some i } } := rfl

@[simp] theorem hold_par : (hold i s).par = s.par := rfl
@[simp] theorem hold_cfg : (hold i s).cfg = s.cfg := rfl
@[simp] theorem hold_chanClaimed : (hold i s).chanClaimed = s.chanClaimed := rfl
@[simp] theorem hold_pinClaimed : (hold i s).pinClaimed = s.pinClaimed := rfl
@[simp] theorem hold_led : (hold i s).led = s.led := rfl
@[simp] theorem hold_aud : (hold i s).aud = s.aud := rfl
@[simp] theorem hold_env : (hold i s).env = s.env := rfl
@[simp] theorem hold_pending : (hold i s).port.pending = some i := rfl
@[simp] theorem hold_idx : (hold i s).port.idx = s.port.idx := rfl
@[simp] theorem hold_emitted : (hold i s).port.emitted = s.port.emitted := rfl
@[simp] theorem hold_incoming : (hold i s).port.incoming = s.port.incoming := rfl
@[simp] theorem hold_responses : (hold i s).port.responses = s.port.responses := rfl

/-- `progress` keeps the command pending with its new index and words. -/
theorem progress_eq : progress i k words s =
    { s with port := { s.port with pending := some i, idx := k, emitted := s.port.emitted ++ words } } := rfl

@[simp] theorem progress_par : (progress i k words s).par = s.par := rfl
@[simp] theorem progress_cfg : (progress i k words s).cfg = s.cfg := rfl
@[simp] theorem progress_chanClaimed : (progress i k words s).chanClaimed = s.chanClaimed := rfl
@[simp] theorem progress_pinClaimed : (progress i k words s).pinClaimed = s.pinClaimed := rfl
@[simp] theorem progress_led : (progress i k words s).led = s.led := rfl
@[simp] theorem progress_aud : (progress i k words s).aud = s.aud := rfl
@[simp] theorem progress_env : (progress i k words s).env = s.env := rfl
@[simp] theorem progress_pending : (progress i k words s).port.pending = some i := rfl
@[simp] theorem progress_idx : (progress i k words s).port.idx = k := rfl
@[simp] theorem progress_emitted : (progress i k words s).port.emitted = s.port.emitted ++ words := rfl
@[simp] theorem progress_incoming : (progress i k words s).port.incoming = s.port.incoming := rfl
@[simp] theorem progress_responses : (progress i k words s).port.responses = s.port.responses := rfl

/-- `consumePacket` only moves the port past a packet. -/
theorem consumePacket_eq : consumePacket rest s = { s with port := { s.port with incoming := rest } } := rfl

end Port

/-! ## Queues -/

/-- `pushTx` appends one word to `txq` and changes nothing else (R62). -/
theorem pushTx_eq (w : Word) (s : State) :
    pushTx w s = { s with led := { s.led with txq := s.led.txq ++ [w] } } := rfl

/-- `pushRx` appends one word to `rxq` and changes nothing else (R63). -/
theorem pushRx_eq (w : Word) (s : State) :
    pushRx w s = { s with aud := { s.aud with rxq := s.aud.rxq ++ [w] } } := rfl

/-- `popFrame` takes the two words at the head of `rxq` and changes nothing else (R74). -/
theorem popFrame_eq_some {s t : State} {l r : Word} :
    popFrame s = some (l, r, t) ↔
      ∃ rest, s.aud.rxq = l :: r :: rest ∧ t = { s with aud := { s.aud with rxq := rest } } := by
  unfold popFrame
  split
  · rename_i rawL rawR rest heq
    simp only [Option.some.injEq, Prod.mk.injEq, heq, List.cons.injEq]
    constructor
    · rintro ⟨rfl, rfl, rfl⟩
      exact ⟨rest, ⟨rfl, rfl, rfl⟩, rfl⟩
    · rintro ⟨_, ⟨rfl, rfl, rfl⟩, rfl⟩
      exact ⟨rfl, rfl, rfl⟩
  · rename_i hne
    constructor
    · intro h; cases h
    · rintro ⟨rest, heq, -⟩
      exact absurd heq (hne l r rest)

/-- There is no frame to pop exactly when fewer than two entries are queued (R74). -/
theorem popFrame_eq_none {s : State} : popFrame s = none ↔ s.aud.rxq.length < 2 := by
  unfold popFrame
  split
  · rename_i heq; simp [heq]
  · rename_i hne
    match h : s.aud.rxq with
    | [] => simp
    | [_] => simp
    | l :: r :: rest => exact absurd h (hne l r rest)

/-- A stereo read pops one frame and converts both words (R172). -/
theorem readFrame_eq_some {s t : State} {l r : Word} :
    readFrame s = some (l, r, t) ↔
      ∃ rawL rawR rest, s.aud.rxq = rawL :: rawR :: rest ∧ l = convertRaw rawL s.aud.w ∧ r = convertRaw rawR s.aud.w ∧
        t = { s with aud := { s.aud with rxq := rest } } := by
  unfold readFrame
  split
  · rename_i rawL rawR s' heq
    obtain ⟨rest, hq, rfl⟩ := popFrame_eq_some.mp heq
    simp only [Option.some.injEq, Prod.mk.injEq, hq, List.cons.injEq]
    constructor
    · rintro ⟨rfl, rfl, rfl⟩
      exact ⟨rawL, rawR, rest, ⟨rfl, rfl, rfl⟩, rfl, rfl, rfl⟩
    · rintro ⟨_, _, _, ⟨rfl, rfl, rfl⟩, rfl, rfl, rfl⟩
      exact ⟨rfl, rfl, rfl⟩
  · rename_i heq
    rw [popFrame_eq_none] at heq
    constructor
    · intro h; cases h
    · rintro ⟨_, _, _, hq, -⟩
      simp [hq] at heq

/-- A stereo read is not possible exactly when fewer than two entries are queued (R172). -/
theorem readFrame_eq_none {s : State} : readFrame s = none ↔ s.aud.rxq.length < 2 := by
  rw [← popFrame_eq_none]
  unfold readFrame
  split <;> simp_all

/-! ## Claims -/

/-- `claimChannel` sets one channel claim and changes nothing else (R243). -/
theorem claimChannel_eq (i : Nat) (s : State) :
    claimChannel i s = { s with chanClaimed := s.chanClaimed.set i true } := rfl

/-- `claimPin` sets one pin claim and changes nothing else (R243). -/
theorem claimPin_eq (n : Nat) (s : State) :
    claimPin n s = { s with pinClaimed := s.pinClaimed.set n true } := rfl

/-- The channel claimed is free and every channel below it is not (R243). -/
theorem freeChannel_eq_some {s : State} {ch : Nat} (h : freeChannel s = some ch) :
    s.chanClaimed[ch]? = some false ∧ ∀ j < ch, s.chanClaimed[j]? = some true := by
  unfold freeChannel at h
  rw [List.findIdx?_eq_some_iff_getElem] at h
  obtain ⟨hlt, hfree, hbelow⟩ := h
  refine ⟨?_, fun j hj => ?_⟩
  · simpa [List.getElem?_eq_getElem hlt] using hfree
  · have := hbelow j hj
    simpa [List.getElem?_eq_getElem (show j < s.chanClaimed.length by omega)] using this

/-- No channel is free exactly when every channel is claimed (R140, R170). -/
theorem freeChannel_eq_none {s : State} : freeChannel s = none ↔ ∀ claimed ∈ s.chanClaimed, claimed = true := by
  unfold freeChannel
  simp [List.findIdx?_eq_none_iff]

/-- What LED_INIT commits passed every check of R233. -/
theorem ledInitCheck_ok {s : State} {ch : Nat} (h : ledInitCheck s = .ok ch) :
    s.led.state ≠ .running ∧ s.cfg.ledPin.toNat < nGpio s ∧ clockLegal s.cfg.ledDivOvr s.cfg.sysClkHz = true ∧
      pinIsClaimed s s.cfg.ledPin.toNat = false ∧ freeChannel s = some ch := by
  unfold ledInitCheck at h
  split at h; · cases h
  split at h; · cases h
  split at h; · cases h
  split at h; · cases h
  split at h
  · cases h
  · cases h
    simp_all

/-- What AUD_INIT commits passed every check of R234. -/
theorem audInitCheck_ok {s : State} {rate : SampleRate} {w : SampleWidth} {ch : Nat}
    (h : audInitCheck s = .ok (rate, w, ch)) :
    s.aud.state ≠ .running ∧ rateOfNat s.cfg.audRateHz.toNat = some rate ∧ widthOfNat s.cfg.audBits.toNat = some w ∧
      pinsContiguous s.cfg = true ∧ s.cfg.audDataPin.toNat < nGpio s ∧
      clockLegal s.cfg.audDivOvr s.cfg.sysClkHz = true ∧ audioPinBusy s = false ∧ freeChannel s = some ch := by
  unfold audInitCheck at h
  split at h; · cases h
  split at h; · cases h
  split at h; · cases h
  split at h; · cases h
  split at h; · cases h
  split at h; · cases h
  split at h; · cases h
  split at h
  · cases h
  · cases h
    simp_all

/-! ## The two channels -/

/-- `driveLed` sets LEDOUT and changes nothing else (R16). -/
theorem driveLed_eq (side : BitVec 2) (s : State) :
    driveLed side s = { s with led := { s.led with out := some (side.getLsbD 0) } } := rfl

/-- `driveAudio` sets BCLK and WS and changes nothing else (R16). -/
theorem driveAudio_eq (side : BitVec 2) (s : State) :
    driveAudio side s = { s with aud := { s.aud with bclk := some (side.getLsbD 0), ws := some (side.getLsbD 1) } } :=
  rfl

/-- `ledNext` sets the LED channel's index and delay and changes nothing else (R16). -/
theorem ledNext_eq (t : Nat) (delay : BitVec 3) (s : State) :
    ledNext t delay s = { s with led := { s.led with pc := t, dly := delay.toNat } } := rfl

/-- `audioNext` sets the audio channel's index and changes nothing else (R16). -/
theorem audioNext_eq (t : Nat) (s : State) : audioNext t s = { s with aud := { s.aud with pc := t } } := rfl

/-- SHIFT_OUT shifts a bit of the register while fewer than 24 have gone, else of the word it pops (R151). -/
theorem shiftOut_eq_some {s t : State} (h : shiftOut s = some t) :
    (s.led.osrCnt ≠ 24 ∧
      t = { s with led := { s.led with
        bitv := s.led.osr.getLsbD 31, osr := s.led.osr <<< 1, osrCnt := s.led.osrCnt + 1 } }) ∨
    (s.led.osrCnt = 24 ∧ ∃ word rest, s.led.txq = word :: rest ∧
      t = { s with led := { s.led with
        txq := rest, bitv := word.getLsbD 31, osr := word <<< 1, osrCnt := 1 } }) := by
  unfold shiftOut at h
  split at h
  · rename_i hc
    split at h
    · cases h
    · rename_i word rest hq
      cases h
      exact .inr ⟨hc, word, rest, hq, rfl⟩
  · rename_i hc
    cases h
    exact .inl ⟨hc, rfl⟩

/-- SHIFT_OUT stalls exactly when the register is exhausted and `txq` empty (R151). -/
theorem shiftOut_eq_none {s : State} : shiftOut s = none ↔ s.led.osrCnt = 24 ∧ s.led.txq = [] := by
  by_cases hc : s.led.osrCnt = 24
  · cases hq : s.led.txq <;> simp [shiftOut, Config.pixelBits, hc, hq]
  · simp [shiftOut, Config.pixelBits, hc]

/-- SAMPLE stalls exactly when the push is due and `rxq` full (R198). -/
theorem sample_eq_none {s : State} :
    sample s = none ↔ s.aud.isrCnt = s.aud.w.bits - 1 ∧ s.aud.rxq.length = 8 := by
  unfold sample
  split
  · simp_all [rxqFull, Config.rxqDepth]
  · simp_all [rxqFull, Config.rxqDepth]

/-- SAMPLE takes one DATA bit; the W-th bit pushes the left-aligned word and empties the register (R198). -/
theorem sample_eq_some {s t : State} (h : sample s = some t) :
    (s.aud.isrCnt + 1 ≠ s.aud.w.bits ∧
      t = { drawBit s with aud := { s.aud with
        isr := s.aud.isr.shiftConcat (dataLevel s), isrCnt := s.aud.isrCnt + 1 } }) ∨
    (s.aud.isrCnt + 1 = s.aud.w.bits ∧
      t = { drawBit s with aud := { s.aud with
        isr := 0#32, isrCnt := 0, rxq := s.aud.rxq ++ [rawWord (s.aud.isr.shiftConcat (dataLevel s)) s.aud.w] } }) := by
  unfold sample at h
  split at h
  · cases h
  · cases h
    unfold shiftIn
    by_cases hc : s.aud.isrCnt + 1 = s.aud.w.bits
    · right
      exact ⟨hc, by simp only [drawBit, State.setEnv_aud, hc, if_true]; rfl⟩
    · left
      exact ⟨hc, by simp only [drawBit, State.setEnv_aud, hc, if_false]; rfl⟩

/-! ## Fetch and step -/

/-- Everything the host's turn can fetch (R245, R246). -/
theorem fetchHost_cases (s : State) :
    (∃ i, s.port.pending = some i ∧ fetchHost s = .run i s) ∨
    (s.port.pending = none ∧
      ((∃ i rest, decodePacket s.port.incoming = .instr i rest ∧ fetchHost s = .run i (consumePacket rest s)) ∨
        (∃ rest, decodePacket s.port.incoming = .illegalHeader rest ∧
          fetchHost s = .settled (raiseError .eIllegal (consumePacket rest s))) ∨
        (decodePacket s.port.incoming = .incomplete ∧ fetchHost s = .settled s))) := by
  unfold fetchHost
  split
  · exact .inl ⟨_, by assumption, rfl⟩
  · right
    refine ⟨by assumption, ?_⟩
    split
    · exact .inl ⟨_, _, by assumption, rfl⟩
    · exact .inr (.inl ⟨_, by assumption, rfl⟩)
    · exact .inr (.inr ⟨by assumption, rfl⟩)

/-- A step is a turn that ends without an instruction, or the meaning of the one it fetched. -/
theorem step_eq_next {s t : State} (h : step s = .next t) :
    fetch s = .settled t ∨ ∃ i s', fetch s = .run i s' ∧ exec i s' = .next t := by
  unfold step at h
  split at h
  · exact .inr ⟨_, _, by assumption, h⟩
  · cases h; exact .inl (by assumption)
  · cases h

/-! ## Responses and pins -/

/-- The words of a response: the status word, then the data words (R95). -/
@[simp] theorem Response.words_mk (st : Status) (data : List Word) :
    Response.words ⟨st, data⟩ = (0#24 ++ st.code) :: data := rfl

/-- No two statuses have one code (R96). -/
theorem Status.code_inj {st st' : Status} (h : st.code = st'.code) : st = st' := by
  cases st <;> cases st' <;> first | rfl | exact absurd h (by decide)

/-- A driven pin is the output of a RUNNING driver, at the level its channel last gave it (R32, R36, R65). -/
theorem drivenLevel_eq_some {s : State} {n : Nat} {b : Bool} (h : drivenLevel s n = some b) :
    (s.led.state = .running ∧ n = s.led.pin ∧ s.led.out = some b) ∨
    (s.aud.state = .running ∧ n = s.aud.clkPin ∧ s.aud.bclk = some b) ∨
    (s.aud.state = .running ∧ n = s.aud.wsPin ∧ s.aud.ws = some b) := by
  unfold drivenLevel at h
  split at h
  · rename_i c; exact .inl ⟨c.1, c.2, h⟩
  · split at h
    · rename_i c; exact .inr (.inl ⟨c.1, c.2, h⟩)
    · split at h
      · rename_i c; exact .inr (.inr ⟨c.1, c.2, h⟩)
      · cases h

/-! ## Rounding -/

/-- What `fp_round` can answer: nearest-even, or for a real that is no floating-point value the implementation's own word
within FP_TOL (R12, R126). -/
theorem fpRound_cases (par : RunParams) (x : ExactReal) :
    fpRound par x = nearestEven x ∨
      (representable x = false ∧ fpRound par x = Config.fpRound (signedSquare x) ∧
        withinTolerance par x (fpRound par x) = true) := by
  unfold fpRound
  split
  · exact .inl rfl
  · split
    · exact .inl rfl
    · split
      · rename_i hr hw; exact .inr ⟨by simpa using hr, rfl, hw⟩
      · exact .inl rfl

/-- A real that is a floating-point value is rounded to nearest-even under every rounding (R126). -/
theorem fpRound_of_representable (par : RunParams) {x : ExactReal} (h : representable x = true) :
    fpRound par x = nearestEven x := by
  obtain h' | ⟨h', -, -⟩ := fpRound_cases par x
  · exact h'
  · rw [h] at h'; cases h'

end Sys2Proof.Machine
end

