-- ==== Sys2Proof/Laws/PerInstr.lean ====
section
/-! SUPPORT. Per-instruction law, with the case split the host names: the words the encoder writes for an instruction carry
the opcode or kind of its row of the opcode table (R93, R107). -/

namespace Sys2Proof.Laws.RowTag

/-- `op` of the row of a command (R93); of a micro-operation, 0. -/
def opcodeOf : Instr → BitVec 8
  | .cfgWr _ _ => 0x01#8
  | .divCalc _ _ _ => 0x02#8
  | .ledInit => 0x10#8
  | .setColor _ => 0x11#8
  | .setRgb _ _ _ => 0x12#8
  | .fill _ => 0x13#8
  | .clear => 0x14#8
  | .audInit => 0x20#8
  | .isReadable => 0x21#8
  | .readStereo => 0x22#8
  | .readStereoNb => 0x23#8
  | .readMono => 0x24#8
  | .readSamples _ => 0x25#8
  | .readSamplesAvail _ => 0x26#8
  | .getFifoLevel => 0x27#8
  | .sampleToMono _ _ => 0x30#8
  | .sampleToFloat _ _ => 0x31#8
  | .getPeak _ _ => 0x32#8
  | .getRms _ => 0x33#8
  | .seqNop _ _ _ => 0#8
  | .seqJump _ _ _ => 0#8
  | .seqBrz _ _ _ => 0#8
  | .seqShiftOut _ _ _ => 0#8
  | .seqSample _ _ _ => 0#8
  | .seqLoop _ _ _ => 0#8
  | .seqSetCnt _ _ _ => 0#8

/-- `kind` of the row of a micro-operation (R107); of a command, 7, which no row has. -/
def kindOf : Instr → BitVec 3
  | .seqNop _ _ _ => 0#3
  | .seqJump _ _ _ => 1#3
  | .seqBrz _ _ _ => 2#3
  | .seqShiftOut _ _ _ => 3#3
  | .seqSample _ _ _ => 4#3
  | .seqLoop _ _ _ => 5#3
  | .seqSetCnt _ _ _ => 6#3
  | _ => 7#3

/-- A command is a packet whose header has its row's `op`, a micro-operation a microword of its row's `kind`. -/
def Statement (i : Instr) : Prop :=
  match encode i with
  | .packet (h :: _) => i.isCommand = true ∧ headerOp h = opcodeOf i
  | .packet [] => False
  | .micro w => i.isCommand = false ∧ microKind w = kindOf i

theorem cfgWr (idx : BitVec 8) (value : Word) : Statement (.cfgWr idx value) := ⟨rfl, headerOp_header _ _⟩
theorem divCalc (cycles : BitVec 24) (sysClk symFreq : Word) : Statement (.divCalc cycles sysClk symFreq) :=
  ⟨rfl, headerOp_header _ _⟩
theorem ledInit : Statement .ledInit := ⟨rfl, headerOp_header _ _⟩
theorem setColor (rgb : BitVec 24) : Statement (.setColor rgb) := ⟨rfl, headerOp_header _ _⟩
theorem setRgb (r g b : BitVec 8) : Statement (.setRgb r g b) := ⟨rfl, headerOp_header _ _⟩
theorem fill (rgb : BitVec 24) : Statement (.fill rgb) := ⟨rfl, headerOp_header _ _⟩
theorem clear : Statement .clear := ⟨rfl, headerOp_header _ _⟩
theorem audInit : Statement .audInit := ⟨rfl, headerOp_header _ _⟩
theorem isReadable : Statement .isReadable := ⟨rfl, headerOp_header _ _⟩
theorem readStereo : Statement .readStereo := ⟨rfl, headerOp_header _ _⟩
theorem readStereoNb : Statement .readStereoNb := ⟨rfl, headerOp_header _ _⟩
theorem readMono : Statement .readMono := ⟨rfl, headerOp_header _ _⟩
theorem readSamples (n : BitVec 24) : Statement (.readSamples n) := ⟨rfl, headerOp_header _ _⟩
theorem readSamplesAvail (n : BitVec 24) : Statement (.readSamplesAvail n) := ⟨rfl, headerOp_header _ _⟩
theorem getFifoLevel : Statement .getFifoLevel := ⟨rfl, headerOp_header _ _⟩
theorem sampleToMono (left right : Word) : Statement (.sampleToMono left right) := ⟨rfl, headerOp_header _ _⟩
theorem sampleToFloat (w : BitVec 8) (sample : Word) : Statement (.sampleToFloat w sample) := ⟨rfl, headerOp_header _ _⟩
theorem getPeak (left right : Word) : Statement (.getPeak left right) := ⟨rfl, headerOp_header _ _⟩
theorem getRms (samples : List (Word × Word)) : Statement (.getRms samples) := ⟨rfl, headerOp_header _ _⟩
theorem seqNop (side : BitVec 2) (delay : BitVec 3) (operand : BitVec 8) : Statement (.seqNop side delay operand) :=
  ⟨rfl, microKind_micro _ _ _ _⟩
theorem seqJump (side : BitVec 2) (delay : BitVec 3) (target : BitVec 8) : Statement (.seqJump side delay target) :=
  ⟨rfl, microKind_micro _ _ _ _⟩
theorem seqBrz (side : BitVec 2) (delay : BitVec 3) (target : BitVec 8) : Statement (.seqBrz side delay target) :=
  ⟨rfl, microKind_micro _ _ _ _⟩
theorem seqShiftOut (side : BitVec 2) (delay : BitVec 3) (count : BitVec 8) : Statement (.seqShiftOut side delay count) :=
  ⟨rfl, microKind_micro _ _ _ _⟩
theorem seqSample (side : BitVec 2) (delay : BitVec 3) (count : BitVec 8) : Statement (.seqSample side delay count) :=
  ⟨rfl, microKind_micro _ _ _ _⟩
theorem seqLoop (side : BitVec 2) (delay : BitVec 3) (target : BitVec 8) : Statement (.seqLoop side delay target) :=
  ⟨rfl, microKind_micro _ _ _ _⟩
theorem seqSetCnt (side : BitVec 2) (delay : BitVec 3) (value : BitVec 8) : Statement (.seqSetCnt side delay value) :=
  ⟨rfl, microKind_micro _ _ _ _⟩

end Sys2Proof.Laws.RowTag
end

