-- ==== Sys2Proof/Tests/Slice0.lean ====
section
/-! SUPPORT. The model's own tests: ill-formed terms that WellFormed refuses, one written-out word per constructor, one
step per instruction with the result 95_test_vectors.md gives, and for every obligation with hypotheses a state and
operands that meet them. -/

namespace Sys2Proof.Tests

open Sys2Proof Sys2Proof.Machine Sys2Proof.Claims

/-! ## States -/

/-- The reset state with a system clock of 125 MHz, the LED on pin 16 with `count` LEDs, the audio pins 10 to 12, 16 kHz
and 16 bits (the configurations of V22 and S7). -/
def configured (count : Word) : State :=
  State.reset.setCfg { Cfg.reset with
    sysClkHz := 125000000#32, ledPin := 16#32, ledCount := count, audClkPin := 10#32, audWsPin := 11#32,
    audDataPin := 12#32, audRateHz := 16000#32, audBits := 16#32 }

/-- A RUNNING LED driver with `count` LEDs and the words `txq` queued. -/
def ledOn (count : Word) (txq : List Word) : State :=
  { configured count with
    chanClaimed := [true, false, false, false]
    pinClaimed := State.reset.pinClaimed.set 16 true
    led := { LedState.reset with state := .running, pin := 16, count := count, txq := txq, out := some false } }

/-- A RUNNING audio driver of width `w` at the start of a frame, with the words `rxq` queued and the DATA bits `bits` to
come. -/
def audOn (w : SampleWidth) (rxq : List Word) (bits : List Bool) : State :=
  { configured 0#32 with
    chanClaimed := [true, false, false, false]
    pinClaimed := ((State.reset.pinClaimed.set 10 true).set 11 true).set 12 true
    aud := { AudioState.reset with
      state := .running, clkPin := 10, wsPin := 11, dataPin := 12, w := w, rxq := rxq, cnt := w.bits - 2,
      bclk := some false, ws := some false, prog := audioProgram w }
    env := { Env.reset with dataIn := bits } }

/-- `s` with the LED channel at step `pc` in the delay `dly`. -/
def ledAt (pc dly : Nat) (bitv : Bool) (s : State) : State := s.setLed { s.led with pc := pc, dly := dly, bitv := bitv }

/-- `s` with the audio channel at step `pc`, with `n` bits taken and loop counter `cnt`. -/
def audAt (pc n cnt : Nat) (s : State) : State := s.setAud { s.aud with pc := pc, isrCnt := n, cnt := cnt }

/-- `s` with words waiting at the port. -/
def sending (ws : List Word) (s : State) : State := s.setPort { s.port with incoming := ws }

/-- `s` with `i` pending, its index and the words emitted so far. -/
def pendingAt (i : Instr) (k : Nat) (ws : List Word) (s : State) : State :=
  s.setPort { s.port with pending := some i, idx := k, emitted := ws }

/-- The next state of an outcome. -/
def next? : Result → Option State
  | .next t => some t
  | .fault _ => none
  | .refused _ => none

/-- The words of the newest response after `i` has run in `s`. -/
def answer (i : Instr) (s : State) : Option (List Word) :=
  (next? (exec i s)).bind fun t => t.port.responses.getLast?.map Response.words

/-- `txq` after `i` has run in `s`. -/
def txqAfter (i : Instr) (s : State) : Option (List Word) := (next? (exec i s)).map fun t => t.led.txq

/-- `rxq` after `i` has run in `s`. -/
def rxqAfter (i : Instr) (s : State) : Option (List Word) := (next? (exec i s)).map fun t => t.aud.rxq

/-- LEDOUT, step index and delay after `i` has run in `s`. -/
def ledAfter (i : Instr) (s : State) : Option (Option Bool × Nat × Nat) :=
  (next? (exec i s)).map fun t => (t.led.out, t.led.pc, t.led.dly)

/-- WS, BCLK, loop counter and step index after `i` has run in `s`. -/
def audAfter (i : Instr) (s : State) : Option (Option Bool × Option Bool × Nat × Nat) :=
  (next? (exec i s)).map fun t => (t.aud.ws, t.aud.bclk, t.aud.cnt, t.aud.pc)

/-! ## WellFormed refuses (R107, R93) -/

theorem test_wf_nop_operand : (Instr.seqNop 0#2 4#3 1#8).wellFormed = false := by decide
theorem test_wf_nop_side : (Instr.seqNop 2#2 4#3 0#8).wellFormed = false := by decide
theorem test_wf_jump_side : (Instr.seqJump 3#2 4#3 0#8).wellFormed = false := by decide
theorem test_wf_jump_target : (Instr.seqJump 1#2 4#3 4#8).wellFormed = false := by decide
theorem test_wf_brz_side : (Instr.seqBrz 2#2 2#3 3#8).wellFormed = false := by decide
theorem test_wf_brz_target : (Instr.seqBrz 1#2 2#3 4#8).wellFormed = false := by decide
theorem test_wf_shift_side : (Instr.seqShiftOut 2#2 1#3 1#8).wellFormed = false := by decide
theorem test_wf_shift_count : (Instr.seqShiftOut 0#2 1#3 2#8).wellFormed = false := by decide
theorem test_wf_sample_delay : (Instr.seqSample 0#2 1#3 1#8).wellFormed = false := by decide
theorem test_wf_sample_count : (Instr.seqSample 0#2 0#3 0#8).wellFormed = false := by decide
theorem test_wf_loop_delay : (Instr.seqLoop 1#2 1#3 0#8).wellFormed = false := by decide
theorem test_wf_loop_target : (Instr.seqLoop 1#2 0#3 8#8).wellFormed = false := by decide
theorem test_wf_set_cnt_delay : (Instr.seqSetCnt 3#2 1#3 14#8).wellFormed = false := by decide
theorem test_wf_set_cnt_value : (Instr.seqSetCnt 3#2 0#3 31#8).wellFormed = false := by decide
theorem test_wf_get_rms_length : (Instr.getRms (List.replicate (2 ^ 24) (0#32, 0#32))).wellFormed = false := by
  simp only [Instr.wellFormed, List.length_replicate, Nat.lt_irrefl, decide_false]

/-! ## One written-out word per constructor

Bits from the most significant down: `op` 8, `a` 24 (R91, R93); `kind` 3, `side` 2, `delay` 3, `operand` 8 (R107). -/

theorem test_decode_cfg_wr : decodePacket [0b00000001_0000000000000000_00001001#32, 0x41960000#32] =
    .instr (.cfgWr 9#8 0x41960000#32) [] := by decide
theorem test_decode_div_calc : decodePacket [0b00000010_000000000000000000001010#32, 125000000#32, 800000#32] =
    .instr (.divCalc 10#24 125000000#32 800000#32) [] := by decide
theorem test_decode_led_init : decodePacket [0b00010000_000000000000000000000000#32] = .instr .ledInit [] := by decide
theorem test_decode_set_color : decodePacket [0b00010001_000100000010000000110000#32] =
    .instr (.setColor 0x102030#24) [] := by decide
theorem test_decode_set_rgb : decodePacket [0b00010010_00010000_00100000_00110000#32] =
    .instr (.setRgb 0x10#8 0x20#8 0x30#8) [] := by decide
theorem test_decode_fill : decodePacket [0b00010011_000000000000000011111111#32] = .instr (.fill 0x0000FF#24) [] := by
  decide
theorem test_decode_clear : decodePacket [0b00010100_000000000000000000000000#32] = .instr .clear [] := by decide
theorem test_decode_aud_init : decodePacket [0b00100000_000000000000000000000000#32] = .instr .audInit [] := by decide
theorem test_decode_is_readable : decodePacket [0b00100001_000000000000000000000000#32] = .instr .isReadable [] := by
  decide
theorem test_decode_read_stereo : decodePacket [0b00100010_000000000000000000000000#32] = .instr .readStereo [] := by
  decide
theorem test_decode_read_stereo_nb : decodePacket [0b00100011_000000000000000000000000#32] = .instr .readStereoNb [] := by
  decide
theorem test_decode_read_mono : decodePacket [0b00100100_000000000000000000000000#32] = .instr .readMono [] := by decide
theorem test_decode_read_samples : decodePacket [0b00100101_000000000000000000000100#32] =
    .instr (.readSamples 4#24) [] := by decide
theorem test_decode_read_samples_avail : decodePacket [0b00100110_000000000000000000001000#32] =
    .instr (.readSamplesAvail 8#24) [] := by decide
theorem test_decode_get_fifo_level : decodePacket [0b00100111_000000000000000000000000#32] = .instr .getFifoLevel [] := by
  decide
theorem test_decode_sample_to_mono : decodePacket [0b00110000_000000000000000000000000#32, 100#32, 201#32] =
    .instr (.sampleToMono 100#32 201#32) [] := by decide
theorem test_decode_sample_to_float : decodePacket [0b00110001_0000000000000000_00010000#32, 32767#32] =
    .instr (.sampleToFloat 16#8 32767#32) [] := by decide
theorem test_decode_get_peak : decodePacket [0b00110010_000000000000000000000000#32, 0xFFFFFFFE#32, 5#32] =
    .instr (.getPeak 0xFFFFFFFE#32 5#32) [] := by decide
theorem test_decode_get_rms : decodePacket [0b00110011_000000000000000000000010#32, 3#32, 0#32, 0xFFFFFFFD#32, 0#32] =
    .instr (.getRms [(3#32, 0#32), (0xFFFFFFFD#32, 0#32)]) [] := by decide
theorem test_decode_seq_nop : decodeMicro 0b000_00_100_00000000#16 = some (.seqNop 0#2 4#3 0#8) := by decide
theorem test_decode_seq_jump : decodeMicro 0b001_01_100_00000000#16 = some (.seqJump 1#2 4#3 0#8) := by decide
theorem test_decode_seq_brz : decodeMicro 0b010_01_010_00000011#16 = some (.seqBrz 1#2 2#3 3#8) := by decide
theorem test_decode_seq_shift_out : decodeMicro 0b011_00_001_00000001#16 = some (.seqShiftOut 0#2 1#3 1#8) := by decide
theorem test_decode_seq_sample : decodeMicro 0b100_10_000_00000001#16 = some (.seqSample 2#2 0#3 1#8) := by decide
theorem test_decode_seq_loop : decodeMicro 0b101_11_000_00000100#16 = some (.seqLoop 3#2 0#3 4#8) := by decide
theorem test_decode_seq_set_cnt : decodeMicro 0b110_01_000_00011110#16 = some (.seqSetCnt 1#2 0#3 30#8) := by decide

/-- The illegal headers of 95_test_vectors.md section 2.7 with an opcode of no row. -/
theorem test_decode_unknown_opcodes :
    [0x00000000#32, 0x03000000#32, 0x0F000000#32, 0x15000000#32, 0x1F123456#32, 0x28000000#32, 0x2F000000#32,
      0x34000000#32, 0x40000000#32, 0xFF000000#32, 0xFFFFFFFF#32].all
        (fun h => decodePacket [h, 1#32] == .illegalHeader [1#32]) = true := by decide

/-- Those with a bit set that must be zero. -/
theorem test_decode_must_be_zero :
    [0x10000001#32, 0x14800000#32, 0x20000001#32, 0x21000001#32, 0x22FFFFFF#32, 0x23000001#32, 0x24000001#32,
      0x27000001#32, 0x30000001#32, 0x32000001#32, 0x01000100#32, 0x31000100#32].all
        (fun h => decodePacket [h, 1#32] == .illegalHeader [1#32]) = true := by decide

/-- A packet cut short is waited for (R281). -/
theorem test_decode_short_packet : decodePacket [0x0200000A#32, 1#32] = .incomplete := by decide

/-- The words of R108 are the LED program, those of R109 for W = 32 the audio program. -/
theorem test_programs : ledProgram = [0x6101#16, 0x4A03#16, 0x2C00#16, 0x0400#16] ∧
    audioProgram .w32 =
      [0x8001#16, 0xA800#16, 0x9001#16, 0xD81E#16, 0x9001#16, 0xB804#16, 0x8001#16, 0xC81E#16] := by decide

/-! ## Placed words (log 2, log 3, log 20) -/

theorem test_table_word_packet : decodeTableWord 64 0x41960000_01000009 = some (.cfgWr 9#8 0x41960000#32) := by decide
theorem test_table_word_zero_arguments : decodeTableWord 32 0x33000001 = some (.getRms [(0#32, 0#32)]) := by decide
theorem test_table_word_micro : decodeTableWord 16 0xB804 = some (.seqLoop 3#2 0#3 4#8) := by decide
theorem test_table_word_reserved : decodeTableWord 16 0xE000 = none := by decide

theorem test_place_packet : (next? (step (State.reset.withFetchWord 64 0x41960000_01000009))).map
    (fun t => (t.cfg.audDivOvr, t.port.incoming)) = some (0x41960000#32, []) := by decide
theorem test_place_led_micro : (next? (step (State.reset.withFetchWord 16 0x2C02))).map
    (fun t => (t.led.out, t.led.pc, t.led.dly)) = some (some true, 2, 4) := by decide
theorem test_place_audio_micro : (next? (step (State.reset.withFetchWord 16 0xD81E))).map
    (fun t => (t.aud.ws, t.aud.bclk, t.aud.cnt, t.aud.pc)) = some (some true, some true, 30, 1) := by decide

/-- Response words with the codes of R96. -/
theorem test_response_words : [Status.ok, .noData, .eRate, .eWidth, .ePins, .eNoChan, .eClock, .ePinRange, .ePinBusy,
      .eAlready, .eNotInit, .eIllegal, .eCfgIdx, .eArg].map (fun st => Response.words ⟨st, [7#32]⟩) =
    [0x00#32, 0x01#32, 0x10#32, 0x11#32, 0x12#32, 0x13#32, 0x14#32, 0x15#32, 0x16#32, 0x17#32, 0x20#32, 0x21#32, 0x22#32,
      0x23#32].map fun w => [w, 7#32] := by decide

/-! ## One step of each instruction (ids of 95_test_vectors.md) -/

theorem test_cfg_wr_V1 : (next? (exec (.cfgWr 0#8 0x07735940#32) State.reset)).map (fun t => t.cfg) =
    some { Cfg.reset with sysClkHz := 125000000#32 } := by decide
theorem test_cfg_wr_V3 : answer (.cfgWr 10#8 1#32) State.reset = some [0x22#32] := by decide
theorem test_div_calc_S1 : answer (.divCalc 10#24 125000000#32 800000#32) State.reset = some [0#32, 0x417A0000#32] := by
  decide
theorem test_div_calc_V11 : answer (.divCalc 0xFFFFFF#24 0xFFFFFFFF#32 0xFFFFFFFF#32) State.reset =
    some [0#32, 0x33800001#32] := by decide
theorem test_led_init_V22 : (next? (exec .ledInit (configured 8#32))).map
    (fun t => (t.led.state, t.led.pin, t.led.count, t.led.div, t.chanClaimed)) =
      some (.running, 16, 8#32, 0x417A0000#32, [true, false, false, false]) := by decide
theorem test_led_init_V20 : answer .ledInit State.reset = some [0x14#32] := by decide
theorem test_set_color_V31 : txqAfter (.setColor 0x102030#24) (ledOn 8#32 [1#32, 2#32]) =
    some [1#32, 2#32, 0x20103000#32] := by decide
theorem test_set_color_V33 : (next? (exec (.setColor 0xFFFFFF#24) (ledOn 8#32 [1#32, 2#32, 3#32, 4#32]))).map
    (fun t => (t.led.txq, t.port.pending, t.port.responses)) =
      some ([1#32, 2#32, 3#32, 4#32], some (.setColor 0xFFFFFF#24), []) := by decide
theorem test_set_rgb_V34 : txqAfter (.setRgb 0x10#8 0x20#8 0x30#8) (ledOn 8#32 []) = some [0x20103000#32] := by decide
theorem test_fill_V36 : (next? (exec (.fill 0x0000FF#24) (ledOn 0#32 []))).map
    (fun t => (t.led.txq, t.port.pending, t.port.responses)) = some ([], none, [⟨.ok, []⟩]) := by decide
theorem test_fill_first_push_V35 : (next? (exec (.fill 0x0000FF#24) (ledOn 3#32 []))).map
    (fun t => (t.led.txq, t.port.pending, t.port.idx)) = some ([0x0000FF00#32], some (.fill 0x0000FF#24), 1) := by decide
theorem test_clear_V37 : (next? (exec .clear (pendingAt .clear 1 [] (ledOn 2#32 [0#32])))).map
    (fun t => (t.led.txq, t.port.pending, t.port.responses)) = some ([0#32, 0#32], none, [⟨.ok, []⟩]) := by decide
theorem test_aud_init_S7 : (next? (exec .audInit (configured 8#32))).map
    (fun t => (t.aud.w, t.aud.cnt, t.aud.div, t.chanClaimed, (List.range 30).filter fun n => t.pinClaimed.getD n false)) =
      some (.w16, 14, 0x42F42400#32, [true, false, false, false], [10, 11, 12]) := by decide
theorem test_aud_init_V50 : answer .audInit State.reset = some [0x10#32] := by decide
theorem test_is_readable_V62 : ([[], [1#32], [1#32, 2#32]] : List (List Word)).map
    (fun q => answer .isReadable (audOn .w16 q [])) = [some [0#32, 0#32], some [0#32, 0#32], some [0#32, 1#32]] := by decide
theorem test_read_stereo_V63 : answer .readStereo (audOn .w16 [0x12340000#32, 0xFFFE0000#32] []) =
    some [0#32, 0x00001234#32, 0xFFFFFFFE#32] := by decide
theorem test_read_stereo_V65 : answer .readStereo (audOn .w24 [0x80000000#32, 0x00000100#32] []) =
    some [0#32, 0xFF800000#32, 1#32] := by decide
theorem test_read_stereo_nb_S8 : (next? (exec .readStereoNb (audOn .w16 [0x00010000#32] []))).map
    (fun t => (t.aud.rxq, t.port.responses)) = some ([0x00010000#32], [⟨.noData, []⟩]) := by decide
theorem test_read_stereo_nb_S8_then : answer .readStereoNb (audOn .w16 [0x00010000#32, 0x00020000#32] []) =
    some [0#32, 1#32, 2#32] := by decide
theorem test_read_mono_V69 : answer .readMono (audOn .w16 [0x12340000#32, 0xFFFE0000#32, 5#32, 6#32] []) =
    some [0#32, 0x00001234#32] := by decide
theorem test_read_mono_V69_queue : rxqAfter .readMono (audOn .w16 [0x12340000#32, 0xFFFE0000#32, 5#32, 6#32] []) =
    some [5#32, 6#32] := by decide
theorem test_read_samples_V71 : answer (.readSamples 0#24) (audOn .w16 [] []) = some [0#32] := by decide
theorem test_read_samples_V70_last : answer (.readSamples 2#24)
    (pendingAt (.readSamples 2#24) 1 [1#32, 2#32] (audOn .w16 [0x00030000#32, 0x00040000#32] [])) =
      some [0#32, 1#32, 2#32, 3#32, 4#32] := by decide
theorem test_read_samples_avail_V72_stop : answer (.readSamplesAvail 4#24)
    (pendingAt (.readSamplesAvail 4#24) 1 [1#32, 2#32] (audOn .w16 [0x00030000#32] [])) =
      some [0#32, 1#32, 1#32, 2#32] := by decide
theorem test_read_samples_avail_V74 : answer (.readSamplesAvail 8#24) (audOn .w16 [] []) = some [0#32, 0#32] := by decide
theorem test_get_fifo_level_V75 : answer .getFifoLevel (audOn .w16 [1#32, 2#32, 3#32] []) = some [0#32, 3#32] := by decide
theorem test_sample_to_mono_V92 : answer (.sampleToMono 0xFFFFFFFE#32 0xFFFFFFFF#32) State.reset =
    some [0#32, 0xFFFFFFFF#32] := by decide
theorem test_sample_to_mono_V93 : answer (.sampleToMono 0x7FFFFFFF#32 0x7FFFFFFF#32) State.reset =
    some [0#32, 0x7FFFFFFF#32] := by decide
theorem test_sample_to_float_S5 : answer (.sampleToFloat 16#8 0xFFFF8000#32) State.reset = some [0#32, 0xBF800100#32] := by
  decide
theorem test_sample_to_float_V105 : answer (.sampleToFloat 20#8 1#32) State.reset = some [0x23#32] := by decide
theorem test_get_peak_V107 : answer (.getPeak 0xFFFFFFFE#32 5#32) State.reset = some [0#32, 2#32, 5#32] := by decide
theorem test_get_peak_V108 : answer (.getPeak 0x80000000#32 0xFFFF8000#32) State.reset =
    some [0#32, 0x80000000#32, 0x00008000#32] := by decide
theorem test_get_rms_V111 : answer (.getRms [(1#32, 3#32), (7#32, 4#32)]) State.reset =
    some [0#32, 0x40A00000#32, 0x40624630#32] := by decide
theorem test_get_rms_V113 : answer (.getRms []) State.reset = some [0x23#32] := by decide
theorem test_seq_nop_R154 : ledAfter (.seqNop 0#2 4#3 0#8) (ledAt 3 0 false (ledOn 1#32 [])) = some (some false, 0, 4) := by
  decide
theorem test_seq_jump_R153 : ledAfter (.seqJump 1#2 4#3 0#8) (ledAt 2 0 true (ledOn 1#32 [])) = some (some true, 0, 4) := by
  decide
theorem test_seq_brz_zero : ledAfter (.seqBrz 1#2 2#3 3#8) (ledAt 1 0 false (ledOn 1#32 [])) = some (some true, 3, 2) := by
  decide
theorem test_seq_brz_V42_tick2 : ledAfter (.seqBrz 1#2 2#3 3#8) (ledAt 1 0 true (ledOn 1#32 [])) =
    some (some true, 2, 2) := by decide
theorem test_seq_shift_out_V42_tick0 : (next? (exec (.seqShiftOut 0#2 1#3 1#8) (ledOn 1#32 [0xA5000000#32]))).map
    (fun t => (t.led.txq, t.led.bitv, t.led.osr, t.led.osrCnt, t.led.pc, t.led.dly)) =
      some ([], true, 0x4A000000#32, 1, 1, 1) := by decide
theorem test_seq_shift_out_stall : (next? (exec (.seqShiftOut 0#2 1#3 1#8) (ledOn 1#32 []))).map
    (fun t => (t.led.out, t.led.osrCnt, t.led.pc)) = some (some false, 24, 0) := by decide
theorem test_seq_sample_V83_stall : (next? (exec (.seqSample 2#2 0#3 1#8)
    (audAt 2 15 0 (audOn .w16 [0#32, 0#32, 0#32, 0#32, 0#32, 0#32, 0#32, 0#32] [true])))).map
      (fun t => (t.aud.ws, t.aud.bclk, t.aud.pc, t.aud.isrCnt, t.env.dataIn)) =
        some (some true, some false, 2, 15, [true]) := by decide
theorem test_seq_sample_push : (next? (exec (.seqSample 2#2 0#3 1#8)
    ((audAt 2 15 0 (audOn .w16 [] [false])).setAud
      { (audAt 2 15 0 (audOn .w16 [] [false])).aud with isr := 0x091A#32 }))).map
        (fun t => (t.aud.rxq, t.aud.isr, t.aud.isrCnt, t.aud.pc)) = some ([0x12340000#32], 0#32, 0, 3) := by decide
theorem test_seq_loop_V81_taken : audAfter (.seqLoop 1#2 0#3 0#8) (audAt 1 1 14 (audOn .w16 [] [])) =
    some (some false, some true, 13, 0) := by decide
theorem test_seq_loop_V81_tick29 : audAfter (.seqLoop 1#2 0#3 0#8) (audAt 1 15 0 (audOn .w16 [] [])) =
    some (some false, some true, 0, 2) := by decide
theorem test_seq_set_cnt_R193 : audAfter (.seqSetCnt 3#2 0#3 14#8) (audAt 3 0 0 (audOn .w16 [] [])) =
    some (some true, some true, 14, 4) := by decide
theorem test_seq_set_cnt_R197 : audAfter (.seqSetCnt 1#2 0#3 14#8) (audAt 7 0 0 (audOn .w16 [] [])) =
    some (some false, some true, 14, 0) := by decide

/-! ## Witnesses: states and operands that meet the hypotheses of each obligation, clause by clause -/

/-- Both drivers RUNNING, the LED on channel 0 and the audio on channel 1. -/
def bothOn : State :=
  { audOn .w16 [] [] with
    chanClaimed := [true, true, false, false]
    pinClaimed := (((State.reset.pinClaimed.set 10 true).set 11 true).set 12 true).set 16 true
    led := (ledOn 3#32 [0xA5000000#32]).led
    aud := { (audOn .w16 [0x12340000#32, 0xFFFE0000#32] []).aud with chan := 1 } }

/-- The reset state of a block with an `fp_round` of its own. -/
def ownRounding : RunParams := { RunParams.suggested with rounding := .implementation }

theorem witness_DecodeOfEncode : (Instr.getRms [(1#32, 2#32)]).wellFormed = true ∧
    (Instr.seqSetCnt 3#2 0#3 30#8).wellFormed = true ∧ (Instr.seqBrz 1#2 7#3 3#8).wellFormed = true ∧
    (Instr.seqLoop 3#2 0#3 7#8).wellFormed = true := by decide

theorem witness_EncodeOfDecode : decode (.packet [0x33000001#32, 1#32, 2#32]) = .ok (.getRms [(1#32, 2#32)]) ∧
    decode (.micro 0xDFFF#16) = .ok (.seqSetCnt 3#2 7#3 255#8) := ⟨rfl, rfl⟩

theorem witness_PacketEndsBeforeNextWords : (Instr.getRms []).wellFormed = true ∧
    encode (.getRms []) = .packet [0x33000000#32] := by decide

/-- No row accepts a header, as a computation. -/
theorem noRow_iff_all (h : Word) : noRow h ↔ commandRows.all (fun row => h &&& row.2 != row.1) = true := by
  simp [noRow]

theorem witness_RejectedExactlyOutsideTheTable : noRow 0x01000100#32 ∧ ¬ noRow 0x010000FF#32 ∧ noRow 0x34000000#32 ∧
    ¬ noRow 0x33FFFFFF#32 ∧ 0xE000 ≤ (0xE000#16).toNat ∧ ¬ 0xE000 ≤ (0xDFFF#16).toNat := by
  simp only [noRow_iff_all]; decide

theorem witness_HostTurnRunsCommand_packet : let s := grantTurn .host (sending [0x14000000#32, 7#32] State.reset)
    nextAgent s = .host ∧ s.port.pending = none ∧ decodePacket s.port.incoming = .instr .clear [7#32] := by decide

theorem witness_HostTurnRunsCommand_pending :
    let s := grantTurn .host (pendingAt .readStereo 0 [] (audOn .w16 [] []))
    nextAgent s = .host ∧ s.port.pending = some .readStereo := by decide

theorem witness_ChannelTurnRunsStep_led : let s := grantTurn .led (ledOn 1#32 [])
    nextAgent s = .led ∧ s.led.state = .running ∧ s.led.dly = 0 ∧ s.led.prog[s.led.pc]? = some 0x6101#16 ∧
      decodeMicro 0x6101#16 = some (.seqShiftOut 0#2 1#3 1#8) ∧ (Instr.seqShiftOut 0#2 1#3 1#8).isLedStep = true := by
  decide

theorem witness_ChannelTurnRunsStep_audio : let s := grantTurn .audio (audAt 7 0 0 (audOn .w32 [] []))
    nextAgent s = .audio ∧ s.aud.state = .running ∧ s.aud.prog[s.aud.pc]? = some 0xC81E#16 ∧
      decodeMicro 0xC81E#16 = some (.seqSetCnt 1#2 0#3 30#8) ∧ (Instr.seqSetCnt 1#2 0#3 30#8).isAudioStep = true := by
  decide

theorem witness_PlacedWordRunsNext : decodeTableWord 24 0x14000000 = some .clear ∧ 16 < 24 ∧
    decodeTableWord 16 0x0400 = some (.seqNop 0#2 4#3 0#8) ∧ (Instr.seqNop 0#2 4#3 0#8).isLedStep = true ∧
    decodeTableWord 16 0x8001 = some (.seqSample 0#2 0#3 1#8) ∧ (Instr.seqSample 0#2 0#3 1#8).isAudioStep = true := by
  decide

/-- An IDLE reset state on the host's turn, with words waiting. -/
def hostTurn (ws : List Word) : State := grantTurn .host (sending ws State.reset)

theorem witness_IllegalHeaderAnswered : hostSends (hostTurn [0x99000000#32, 1#32]) (0x99000000#32 :: [1#32]) ∧
    noRow 0x99000000#32 ∧
    hostSends (hostTurn [0x0100000A#32, 1#32]) ((0x01#8 ++ 0#16 ++ 10#8 : Word) :: 1#32 :: []) ∧ 10 ≤ (10#8).toNat ∧
    hostSends (hostTurn [0x31000014#32, 1#32]) ((0x31#8 ++ 0#16 ++ 20#8 : Word) :: 1#32 :: []) ∧
    (20#8).toNat ∉ [16, 24, 32] ∧ hostSends (hostTurn [0x33000000#32]) (0x33000000#32 :: []) := by
  simp only [noRow_iff_all, hostSends]; decide

theorem witness_LedDelayTick : let s := grantTurn .led (ledAt 1 1 true (ledOn 1#32 []))
    nextAgent s = .led ∧ s.led.state = .running ∧ 0 < s.led.dly := by decide

theorem witness_DisabledTurnChangesNothing :
    (nextAgent (grantTurn .led State.reset) = .led ∧ (grantTurn .led State.reset).led.state = .uninit) ∧
    (nextAgent (grantTurn .audio State.reset) = .audio ∧ (grantTurn .audio State.reset).aud.state = .uninit) ∧
    (let s := grantTurn .host (sending [0x01000000#32] State.reset)
     nextAgent s = .host ∧ s.port.pending = none ∧ decodePacket s.port.incoming = .incomplete) := by decide

theorem witness_FailedCommandChangesNothing : ∃ t, exec (.getRms []) State.reset = .next t ∧
    t.port.responses = State.reset.port.responses ++ [{ status := .eArg, data := [] }] ∧ Status.eArg ≠ .ok :=
  ⟨_, rfl, rfl, by decide⟩

theorem witness_FailedCommandChangesNothing_noData : ∃ t, exec .readStereoNb (audOn .w16 [1#32] []) = .next t ∧
    t.port.responses = (audOn .w16 [1#32] []).port.responses ++ [{ status := .noData, data := [] }] ∧
    Status.noData ≠ .ok :=
  ⟨_, rfl, rfl, by decide⟩

theorem witness_FailedCommandChangesNothing_step : ∃ t, step (hostTurn [0x99000000#32]) = .next t ∧
    t.port.responses = (hostTurn [0x99000000#32]).port.responses ++ [{ status := .eIllegal, data := [] }] ∧
    Status.eIllegal ≠ .ok :=
  ⟨_, rfl, rfl, by decide⟩

theorem witness_FailedCommandChangesNothing_first : PortInv (hostTurn [0x33000000#32]) ∧
    ∃ t, step (hostTurn [0x33000000#32]) = .next t ∧
      t.port.responses = (hostTurn [0x33000000#32]).port.responses ++ [{ status := .eArg, data := [] }] :=
  ⟨⟨fun _ => ⟨rfl, rfl⟩, fun _ h => by cases h⟩, _, rfl, rfl⟩

theorem witness_CommandAnswersOnceOrStaysPending : Instr.readStereo.isCommand = true ∧
    (∃ t, exec .readStereo (audOn .w16 [1#32] []) = .next t ∧ t.port.pending = some .readStereo) ∧
    (∃ t, exec .readStereo (audOn .w16 [1#32, 2#32] []) = .next t ∧ t.port.responses ≠ []) :=
  ⟨by decide, ⟨_, rfl, by decide⟩, ⟨_, rfl, by decide⟩⟩

/-- A READ_SAMPLES_AVAIL that has read one of its two frames and finds no other. -/
def oneOfTwo : State := pendingAt (.readSamplesAvail 2#24) 1 [1#32, 2#32] (audOn .w16 [3#32] [])

theorem witness_CommandAnswersOnceOrStaysPending_data : PortInv oneOfTwo ∧
    oneOfTwo.port.pending = some (.readSamplesAvail 2#24) ∧
    ∃ t, exec (.readSamplesAvail 2#24) oneOfTwo = .next t ∧
      t.port.responses = oneOfTwo.port.responses ++ [{ status := .ok, data := [1#32, 1#32, 2#32] }] :=
  ⟨⟨fun h => (by cases h), fun _ h => (by cases h; unfold pendingOk; decide)⟩, rfl, _, rfl, rfl⟩

theorem witness_CommandAnswersOnceOrStaysPending_idle : PortInv State.reset ∧ State.reset.port.pending = none ∧
    ∃ t, exec (.getPeak 0#32 0#32) State.reset = .next t ∧
      t.port.responses = State.reset.port.responses ++ [{ status := .ok, data := [0#32, 0#32] }] :=
  ⟨⟨fun _ => ⟨rfl, rfl⟩, fun _ h => by cases h⟩, rfl, _, rfl, rfl⟩

theorem witness_DriverCommandsNeedInit : (needsLed .clear = true ∧ State.reset.led.state = .uninit) ∧
    (needsAudio .getFifoLevel = true ∧ State.reset.aud.state = .uninit) := by decide

theorem witness_CfgWriteStoresOneRegister : (9#8).toNat ≤ 9 ∧ 10 ≤ (10#8).toNat := by decide

theorem witness_tolerance : 0 < RunParams.suggested.fpTolDen ∧
    RunParams.suggested.fpTolDen ≤ RunParams.suggested.fpTolNum * 2 ^ 23 ∧ 0 < ownRounding.fpTolDen ∧
    ownRounding.fpTolDen ≤ ownRounding.fpTolNum * 2 ^ 23 := by decide

/-- The value of a pattern, field by field. -/
theorem fpValue_of_fields (p : Word) (neg : Bool) (e f : Nat) (hn : p.getLsbD 31 = neg)
    (he : (p.extractLsb' 23 8).toNat = e) (hf : (p.extractLsb' 0 23).toNat = f) :
    fpValue p = (if neg then -1 else 1) *
      (if e = 0 then (f : ℝ) / 2 ^ 149 else ((2 ^ 23 + f : ℕ) : ℝ) * 2 ^ e / 2 ^ 150) := by
  subst hn he hf; rfl

theorem witness_DivCalcAnswersQuotient : 0 < (10#24).toNat ∧ 0 < (125000000#32).toNat ∧ 0 < (800000#32).toNat ∧
    isBinary32 (((125000000#32 : Word).toNat : ℝ) / ((10#24).toNat * (800000#32 : Word).toNat : ℕ)) ∧
    isBinary32 ((125000000#32 : Word).toNat : ℝ) ∧ isBinary32 (((10#24).toNat * (800000#32 : Word).toNat : ℕ) : ℝ) := by
  refine ⟨by decide, by decide, by decide, ⟨0x417A0000#32, by unfold fpIsFinite; decide, ?_⟩,
    ⟨0x4CEE6B28#32, by unfold fpIsFinite; decide, ?_⟩, ⟨0x4AF42400#32, by unfold fpIsFinite; decide, ?_⟩⟩
  · rw [fpValue_of_fields _ false 130 0x7A0000 (by decide) (by decide) (by decide)]; norm_num
  · rw [fpValue_of_fields _ false 153 0x6E6B28 (by decide) (by decide) (by decide)]; norm_num
  · rw [fpValue_of_fields _ false 149 0x742400 (by decide) (by decide) (by decide)]; norm_num

/-- A quotient that is a floating-point value, 1, of a clock that is none, 2^24 + 1. -/
theorem witness_DivCalcAnswersQuotient_clock :
    isBinary32 (((16777217#32 : Word).toNat : ℝ) / ((1#24).toNat * (16777217#32 : Word).toNat : ℕ)) := by
  refine ⟨0x3F800000#32, by unfold fpIsFinite; decide, ?_⟩
  rw [fpValue_of_fields _ false 127 0 (by decide) (by decide) (by decide)]; norm_num

theorem witness_DivCalcZeroOperandIsFree :
    (0#24 = 0#24 ∨ 1#32 = 0#32 ∨ 1#32 = 0#32) ∧ (1#24 = 0#24 ∨ 0#32 = 0#32 ∨ 1#32 = 0#32) ∧
    (1#24 = 0#24 ∨ 1#32 = 0#32 ∨ 0#32 = 0#32) := by decide

theorem witness_FpRoundWithinTolerance :
    let x : ExactReal := { neg := true, num := 2 ^ 100, den := 1, root := true }
    0 < x.den ∧ 0 < x.num ∧ x.num ≤ 2 ^ 100 * x.den ∧ x.den ≤ 2 ^ 100 * x.num := by decide

theorem witness_FpRoundExactWhenRepresentable :
    0 < (exactRatio 1 1).den ∧ isBinary32 (realOf (exactRatio 1 1)) := by
  refine ⟨by decide, 0x3F800000#32, by unfold fpIsFinite; decide, ?_⟩
  rw [fpValue_of_fields _ false 127 0 (by decide) (by decide) (by decide)]
  norm_num [realOf, exactRatio]

/-- One real written three ways: 1/3, 2/6 and the root of 1/9. -/
theorem witness_FpRoundExactWhenRepresentable_equal : realOf (exactRatio 1 3) = realOf (exactRatio 2 6) ∧
    realOf (exactRatio 1 3) = realOf { neg := false, num := 1, den := 9, root := true } := by
  have h : Real.sqrt (1 / 9) = 1 / 3 := by
    rw [show (1 / 9 : ℝ) = (1 / 3) ^ 2 by norm_num]; exact Real.sqrt_sq (by norm_num)
  constructor
  · norm_num [realOf, exactRatio]
  · simp only [realOf, exactRatio, Nat.cast_one, Nat.cast_ofNat, if_true, Bool.false_eq_true, if_false, one_mul, h]

/-- They have one name, and 1/3 and 1/5 have two. -/
theorem test_signed_square : signedSquare (exactRatio 1 3) = signedSquare (exactRatio 2 6) ∧
    signedSquare (exactRatio 1 3) = signedSquare { neg := false, num := 1, den := 9, root := true } ∧
    signedSquare (exactRatio 1 3) ≠ signedSquare (exactRatio 1 5) := by norm_num [signedSquare, exactRatio]

/-- The configuration of V24: no clock, the override 18.75. -/
def overridden : State := (configured 8#32).setCfg
  { (configured 8#32).cfg with sysClkHz := 0#32, ledDivOvr := 0x41960000#32, audDivOvr := 0x41960000#32 }

theorem override_is_positive : 0x41960000#32 ≠ 0#32 ∧ fpIsFinite 0x41960000#32 ∧ 0 < fpValue 0x41960000#32 := by
  refine ⟨by decide, by unfold fpIsFinite; decide, ?_⟩
  rw [fpValue_of_fields _ false 131 0x160000 (by decide) (by decide) (by decide)]
  norm_num

theorem witness_LedInitCommits (s : State) (hs : s = configured 8#32 ∨ s = overridden) :
    s.led.state = .uninit ∧ s.pinClaimed[s.cfg.ledPin.toNat]? = some false ∧ s.chanClaimed[0]? = some false ∧
    (∀ j < 0, s.chanClaimed[j]? = some true) ∧
    (s.cfg.ledDivOvr = 0#32 ∧ s.cfg.sysClkHz ≠ 0#32 ∨
      s.cfg.ledDivOvr ≠ 0#32 ∧ fpIsFinite s.cfg.ledDivOvr ∧ 0 < fpValue s.cfg.ledDivOvr) := by
  rcases hs with rfl | rfl
  · exact ⟨by decide, by decide, by decide, by decide, Or.inl (by decide)⟩
  · exact ⟨by decide, by decide, by decide, by decide, Or.inr override_is_positive⟩

/-- Negative zero is no positive override (V25). -/
theorem negative_zero_is_bad : 0x80000000#32 ≠ 0#32 ∧ ¬ (fpIsFinite 0x80000000#32 ∧ 0 < fpValue 0x80000000#32) := by
  refine ⟨by decide, fun h => ?_⟩
  have := h.2
  rw [fpValue_of_fields _ true 0 0 (by decide) (by decide) (by decide)] at this
  norm_num at this

theorem witness_LedInitReportsFirstFailure_checks :
    (ledOn 1#32 []).led.state = .running ∧
    (let s := (configured 8#32).setCfg { (configured 8#32).cfg with ledPin := 30#32 }
     s.led.state = .uninit ∧ s.pinClaimed.length ≤ s.cfg.ledPin.toNat) ∧
    (State.reset.led.state = .uninit ∧ State.reset.cfg.ledPin.toNat < State.reset.pinClaimed.length ∧
      State.reset.cfg.ledDivOvr = 0#32 ∧ State.reset.cfg.sysClkHz = 0#32) ∧
    (let s := (configured 8#32).setPinClaimed ((configured 8#32).pinClaimed.set 16 true)
     s.led.state = .uninit ∧ (s.cfg.ledDivOvr = 0#32 ∧ s.cfg.sysClkHz ≠ 0#32) ∧
      s.pinClaimed[s.cfg.ledPin.toNat]? = some true) ∧
    (let s := (configured 8#32).setChanClaimed [true, true]
     s.led.state = .uninit ∧ (s.cfg.ledDivOvr = 0#32 ∧ s.cfg.sysClkHz ≠ 0#32) ∧
      s.pinClaimed[s.cfg.ledPin.toNat]? = some false ∧ ∀ claimed ∈ s.chanClaimed, claimed = true) := by decide

theorem witness_PixelPushed : let s := ledOn 1#32 [1#32, 2#32, 3#32]
    s.led.state = .running ∧ s.led.txq.length < s.par.txqDepth := by decide

theorem witness_FullQueueHolds : let s := ledOn 1#32 [1#32, 2#32, 3#32, 4#32]
    needsLed .clear = true ∧ needsLed (.setColor 0#24) = true ∧ s.led.state = .running ∧
      s.led.txq.length = s.par.txqDepth ∧ s.port.idx < s.led.count.toNat := by decide

theorem witness_FillLinePushes :
    (let s := ledOn 0#32 []
     s.led.state = .running ∧ s.led.count.toNat ≤ s.port.idx) ∧
    (let s := ledOn 1#32 [1#32, 2#32, 3#32]
     s.led.state = .running ∧ s.port.idx + 1 = s.led.count.toNat ∧ s.led.txq.length < s.par.txqDepth) ∧
    (let s := ledOn 2#32 []
     s.led.state = .running ∧ s.port.idx + 1 < s.led.count.toNat ∧ s.led.txq.length < s.par.txqDepth) := by decide

theorem witness_WholeFillPushesCountWords : let s := sending [0x13102030#32, 9#32] (ledOn 4#32 [])
    s.led.state = .running ∧ s.port.pending = none ∧ s.port.idx = 0 ∧ s.port.emitted = [] ∧
      s.port.incoming = (0x13#8 ++ 0x10#8 ++ 0x20#8 ++ 0x30#8 : Word) :: [9#32] ∧ 0 < s.led.count.toNat ∧
      s.led.txq.length + s.led.count.toNat ≤ s.par.txqDepth := by decide

theorem witness_AudInitCommits (s : State) (hs : s = configured 8#32 ∨ s = overridden) :
    s.aud.state = .uninit ∧ s.cfg.audRateHz.toNat = SampleRate.r16000.hz ∧ s.cfg.audBits.toNat = SampleWidth.w16.bits ∧
    s.cfg.audWsPin.toNat = s.cfg.audClkPin.toNat + 1 ∧ s.cfg.audDataPin.toNat = s.cfg.audWsPin.toNat + 1 ∧
    s.pinClaimed[s.cfg.audClkPin.toNat]? = some false ∧ s.pinClaimed[s.cfg.audWsPin.toNat]? = some false ∧
    s.pinClaimed[s.cfg.audDataPin.toNat]? = some false ∧ s.chanClaimed[0]? = some false ∧
    (∀ j < 0, s.chanClaimed[j]? = some true) ∧
    (s.cfg.audDivOvr = 0#32 ∧ s.cfg.sysClkHz ≠ 0#32 ∨
      s.cfg.audDivOvr ≠ 0#32 ∧ fpIsFinite s.cfg.audDivOvr ∧ 0 < fpValue s.cfg.audDivOvr) := by
  rcases hs with rfl | rfl
  · exact ⟨by decide, by decide, by decide, by decide, by decide, by decide, by decide, by decide, by decide, by decide,
      Or.inl (by decide)⟩
  · exact ⟨by decide, by decide, by decide, by decide, by decide, by decide, by decide, by decide, by decide, by decide,
      Or.inr override_is_positive⟩

/-- `configured` with the audio registers `clk`, `ws`, `data`, `rate` and `bits`. -/
def audioCfg (clk ws data rate bits : Word) : State :=
  (configured 8#32).setCfg { (configured 8#32).cfg with
    audClkPin := clk, audWsPin := ws, audDataPin := data, audRateHz := rate, audBits := bits }

/-- V53, V52, V54 and V57: the first four failing checks of an UNINIT driver, each with the checks before it passed. -/
theorem witness_AudInitReportsFirstFailure_validation :
    (audOn .w16 [] []).aud.state = .running ∧
    (audioCfg 1#32 5#32 9#32 7#32 7#32).cfg.audRateHz.toNat ∉ [8000, 16000, 32000, 44100, 48000, 88200, 96000] ∧
    (let s := audioCfg 10#32 11#32 12#32 16000#32 20#32
     s.cfg.audRateHz.toNat ∈ [8000, 16000, 32000, 44100, 48000, 88200, 96000] ∧ s.cfg.audBits.toNat ∉ [16, 24, 32]) ∧
    (let s := audioCfg 10#32 12#32 13#32 16000#32 16#32
     s.cfg.audBits.toNat ∈ [16, 24, 32] ∧ s.cfg.audWsPin.toNat ≠ s.cfg.audClkPin.toNat + 1) ∧
    (let s := audioCfg 28#32 29#32 30#32 16000#32 16#32
     s.cfg.audWsPin.toNat = s.cfg.audClkPin.toNat + 1 ∧ s.cfg.audDataPin.toNat = s.cfg.audWsPin.toNat + 1 ∧
      s.pinClaimed.length ≤ s.cfg.audDataPin.toNat) := by decide

/-- V58, V59 and no free channel: the later checks, on a rate, a width and pins that pass. -/
theorem witness_AudInitReportsFirstFailure_claiming :
    (let s := (configured 8#32).setCfg { (configured 8#32).cfg with sysClkHz := 0#32 }
     s.aud.state = .uninit ∧ ¬ s.pinClaimed.length ≤ s.cfg.audDataPin.toNat ∧ s.cfg.audDivOvr = 0#32 ∧
      s.cfg.sysClkHz = 0#32) ∧
    (let s := (configured 8#32).setPinClaimed ((configured 8#32).pinClaimed.set 11 true)
     s.aud.state = .uninit ∧ (s.cfg.audDivOvr = 0#32 ∧ s.cfg.sysClkHz ≠ 0#32) ∧
      s.pinClaimed[s.cfg.audWsPin.toNat]? = some true) ∧
    (let s := (configured 8#32).setChanClaimed []
     s.aud.state = .uninit ∧ (s.cfg.audDivOvr = 0#32 ∧ s.cfg.sysClkHz ≠ 0#32) ∧
      s.pinClaimed[s.cfg.audClkPin.toNat]? = some false ∧ s.pinClaimed[s.cfg.audWsPin.toNat]? = some false ∧
      s.pinClaimed[s.cfg.audDataPin.toNat]? = some false ∧ ∀ claimed ∈ s.chanClaimed, claimed = true) := by decide

theorem witness_LevelReadsAnswer : State.reset.aud.state = .uninit ∧ (audOn .w16 [] []).aud.state = .running ∧
    2 ≤ (audOn .w16 [1#32, 2#32] []).aud.rxq.length ∧ (audOn .w16 [1#32] []).aud.rxq.length < 2 := by decide

theorem witness_StereoReadsPopOneFrame : let s := audOn .w24 [1#32, 2#32, 3#32] []
    s.aud.state = .running ∧ s.aud.rxq = 1#32 :: 2#32 :: [3#32] := by decide

theorem witness_ShortQueueReads : let s := audOn .w16 [1#32] []
    s.aud.state = .running ∧ s.aud.rxq.length < 2 ∧ s.port.idx < (1#24).toNat := by decide

theorem witness_BufferReadLine :
    (let s := audOn .w16 [] []
     s.aud.state = .running ∧ (0#24).toNat ≤ s.port.idx) ∧
    (let s := audOn .w16 [1#32, 2#32] []
     s.aud.rxq = 1#32 :: 2#32 :: [] ∧ s.port.idx < (1#24).toNat ∧ s.port.idx + 1 = (1#24).toNat ∧
      s.port.idx + 1 < (2#24).toNat) := by decide

theorem witness_WholeReadSamplesReturnsFrames :
    let s := sending [0x25000004#32, 9#32] (audOn .w16 [1#32, 2#32, 3#32, 4#32, 5#32, 6#32, 7#32, 8#32] [])
    s.aud.state = .running ∧ s.port.pending = none ∧ s.port.idx = 0 ∧ s.port.emitted = [] ∧
      s.port.incoming = (0x25#8 ++ 4#24 : Word) :: [9#32] ∧ 0 < (4#24).toNat ∧ 2 * (4#24).toNat ≤ s.aud.rxq.length := by
  decide

theorem witness_SampleRoundTrip :
    (-(2 ^ (SampleWidth.w32.bits - 1)) ≤ (-2147483648 : Int) ∧ (-2147483648 : Int) ≤ 2 ^ (SampleWidth.w32.bits - 1) - 1) ∧
    (-(2 ^ (SampleWidth.w16.bits - 1)) ≤ (32767 : Int) ∧ (32767 : Int) ≤ 2 ^ (SampleWidth.w16.bits - 1) - 1) := by decide

theorem witness_FloatIsNormalisedSample : (20#8).toNat ∉ [16, 24, 32] ∧ (16#8).toNat ∈ [16, 24, 32] ∧
    (32767#32 : Word).toInt = 2 ^ ((16#8).toNat - 1) - 1 ∧ (0x7FFFFFFF#32 : Word).toInt = 2 ^ ((32#8).toNat - 1) - 1 := by
  decide

theorem witness_FloatIsNormalisedSample_least : RunParams.suggested.rounding = .nearestEven ∧
    (0xFFFF8000#32 : Word).toInt = -2 ^ ((16#8).toNat - 1) ∧ (0x80000000#32 : Word).toInt = -2 ^ ((32#8).toNat - 1) := by
  decide

/-- The number 1 is a floating-point value. -/
theorem one_isBinary32 : isBinary32 1 := by
  refine ⟨0x3F800000#32, by unfold fpIsFinite; decide, ?_⟩
  rw [fpValue_of_fields _ false 127 0 (by decide) (by decide) (by decide)]
  norm_num

theorem witness_FloatIsNormalisedSample_exact : isBinary32 (((32767#32 : Word).toInt : ℝ) / (2 ^ ((16#8).toNat - 1) - 1)) := by
  have h : (((32767#32 : Word).toInt : ℝ) / (2 ^ ((16#8).toNat - 1) - 1)) = 1 := by
    rw [show (32767#32 : Word).toInt = 32767 by decide]; norm_num
  rw [h]; exact one_isBinary32

theorem witness_RmsIsRootMeanSquare_exact :
    isBinary32 (Real.sqrt ((([1#32] : List Word).map fun x => (x.toInt : ℝ) ^ 2).sum / ([1#32] : List Word).length)) := by
  have h : Real.sqrt ((([1#32] : List Word).map fun x => (x.toInt : ℝ) ^ 2).sum / ([1#32] : List Word).length) = 1 := by
    norm_num
  rw [h]; exact one_isBinary32

theorem witness_RmsIsRootMeanSquare : [(1#32, 0#32)] ≠ ([] : List (Word × Word)) ∧ [(1#32, 0#32)].length < 2 ^ 24 ∧
    ∀ x ∈ [(1#32, 0#32)].map Prod.snd, x = 0#32 := by simp

theorem witness_ShiftOutSendsNextBit :
    ({ (ledOn 1#32 []).led with osrCnt := 23 } : LedState).osrCnt ≠ 24 ∧
    ((ledOn 1#32 [1#32]).led.osrCnt = 24 ∧ (ledOn 1#32 [1#32]).led.txq = 1#32 :: []) ∧
    ((ledOn 1#32 []).led.osrCnt = 24 ∧ (ledOn 1#32 []).led.txq = []) := by decide

theorem witness_LedBranchesGoWhereTheySay : (ledAt 1 0 false (ledOn 1#32 [])).led.bitv = false ∧
    (ledAt 1 0 true (ledOn 1#32 [])).led.bitv = true := by decide

/-- A state of the LED channel's turn at step `pc` with `n` bits gone. -/
def ledTurn (pc n : Nat) (bitv : Bool) (txq : List Word) : State :=
  grantTurn .led (ledAt pc 0 bitv ((ledOn 1#32 txq).setLed { (ledOn 1#32 txq).led with osrCnt := n }))

theorem witness_LedProgramTable : ∀ s ∈ [ledTurn 0 23 false [], ledTurn 0 24 false [], ledTurn 0 24 false [5#32], ledTurn 1 1 false [],
      ledTurn 1 1 true [], ledTurn 2 1 true [], ledTurn 3 1 false []],
    nextAgent s = .led ∧ s.led.state = .running ∧ s.led.dly = 0 ∧ s.led.prog = ledProgram := by decide

theorem witness_LedProgramTable_clauses : (ledTurn 0 23 false []).led.osrCnt ≠ 24 ∧
    (ledTurn 0 24 false []).led.txq = [] ∧ (ledTurn 0 24 false [5#32]).led.txq = 5#32 :: [] ∧ (ledTurn 0 24 false [5#32]).led.osrCnt = 24 ∧
    ((ledTurn 1 1 false []).led.pc = 1 ∧ (ledTurn 1 1 false []).led.bitv = false) ∧
    ((ledTurn 1 1 true []).led.pc = 1 ∧ (ledTurn 1 1 true []).led.bitv = true) ∧ (ledTurn 2 1 true []).led.pc = 2 ∧
    (ledTurn 3 1 false []).led.pc = 3 := by decide

theorem witness_SymbolWaveform : ∀ s ∈ [ledTurn 0 24 false [0xA5000000#32],
      (ledTurn 0 23 false []).setLed { (ledTurn 0 23 false []).led with osr := 0x80000000#32 }],
    s.led.state = .running ∧ s.led.prog = ledProgram ∧ s.led.pc = 0 ∧ s.led.dly = 0 ∧
      comingBit s.led = some true := by decide

theorem witness_PixelWaveform : let s := ledOn 1#32 [0x00FF0000#32, 1#32]
    s.led.state = .running ∧ s.led.prog = ledProgram ∧ s.led.pc = 0 ∧ s.led.dly = 0 ∧ s.led.osrCnt = 24 ∧
      s.led.txq = 0x00FF0000#32 :: [1#32] := by decide

/-- A receive queue with every entry taken. -/
def fullQueue : List Word := List.replicate 8 0xFFFF0000#32

theorem witness_StalledTickDrivesOnlyPins :
    (ledStalled (ledOn 1#32 []) = true ∧ (ledOn 1#32 []).led.prog = ledProgram) ∧
    (audStalled (audAt 2 15 0 (audOn .w16 fullQueue [])) = true ∧
      audStalled (audAt 6 31 0 (audOn .w32 fullQueue [])) = true ∧
      (audAt 6 31 0 (audOn .w32 fullQueue [])).aud.prog = audioProgram .w32) := by decide

theorem witness_SampleTakesOneBit :
    (let s := audAt 2 15 0 (audOn .w16 fullQueue [])
     s.aud.isrCnt = s.aud.w.bits - 1 ∧ s.aud.rxq.length = 8) ∧
    (let s := audAt 2 15 0 (audOn .w16 [1#32] [])
     s.aud.isrCnt = s.aud.w.bits - 1 ∧ s.aud.rxq.length ≠ 8) ∧
    (audAt 0 14 0 (audOn .w16 fullQueue [])).aud.isrCnt ≠ (audOn .w16 fullQueue []).aud.w.bits - 1 := by decide

theorem witness_LoopCountsDown : (audAt 1 1 1 (audOn .w16 [] [])).aud.cnt ≠ 0 ∧
    (audAt 1 1 0 (audOn .w16 [] [])).aud.cnt = 0 := by decide

theorem witness_AudioClockSteps : ∀ p ∈ [(1, 1), (1, 0), (3, 0), (5, 30), (5, 0), (7, 0)],
    let s := grantTurn .audio (audAt p.1 1 p.2 (audOn .w32 [] []))
    nextAgent s = .audio ∧ s.aud.state = .running ∧ s.aud.prog = audioProgram s.aud.w ∧ s.aud.pc = p.1 ∧
      s.aud.cnt = p.2 := by decide

theorem witness_PhaseCapturesWord : ∀ pc ∈ [0, 4],
    let s := audAt pc 0 14 (audOn .w16 [1#32, 2#32, 3#32, 4#32, 5#32, 6#32, 7#32] (List.replicate 20 true))
    s.aud.state = .running ∧ s.aud.prog = audioProgram s.aud.w ∧ (s.aud.pc = 0 ∨ s.aud.pc = 4) ∧
      s.aud.cnt = s.aud.w.bits - 2 ∧ s.aud.isr = 0#32 ∧ s.aud.isrCnt = 0 ∧ s.aud.rxq.length < 8 ∧
      s.env.dataIn = List.replicate 16 true ++ List.replicate 4 true ∧
      (List.replicate 16 true).length = s.aud.w.bits := by decide

theorem witness_FrameWaveform : let s := audOn .w24 [1#32, 2#32, 3#32, 4#32, 5#32, 6#32] []
    s.aud.state = .running ∧ s.aud.prog = audioProgram s.aud.w ∧ s.aud.pc = 0 ∧ s.aud.cnt = s.aud.w.bits - 2 ∧
      s.aud.isr = 0#32 ∧ s.aud.isrCnt = 0 ∧ s.aud.rxq.length + 2 ≤ 8 ∧ 95 < 4 * s.aud.w.bits := by decide

theorem witness_LedInv : LedInv bothOn := by constructor <;> decide

theorem witness_AudioInv : AudioInv bothOn := by
  refine ⟨by decide, by decide, by decide, by decide, fun _ => ?_⟩
  refine ⟨by decide, by decide, by decide, by decide, by decide, by decide, by decide, ?_, by decide⟩
  simp [bothOn, audOn, SampleWidth.bits]

theorem witness_ArenaInv : ArenaInv bothOn := by constructor <;> decide

theorem witness_PortInv : PortInv bothOn :=
  ⟨fun _ => ⟨rfl, rfl⟩, fun _ h => by cases h⟩

/-- A port invariant met with a FILL half done. -/
theorem witness_PortInv_pending : PortInv (pendingAt (.fill 1#24) 2 [] bothOn) :=
  ⟨fun h => (by cases h), fun _ h => (by cases h; unfold pendingOk; decide)⟩

theorem witness_Inv : Inv bothOn := ⟨witness_LedInv, witness_AudioInv, witness_ArenaInv, witness_PortInv⟩

/-- Each agent's turn of `bothOn` answers a next state. -/
theorem witness_steps : (∃ t, step (grantTurn .host (sending [0x11102030#32] bothOn)) = .next t) ∧
    (∃ t, step (grantTurn .led bothOn) = .next t) ∧ (∃ t, step (grantTurn .audio bothOn) = .next t) :=
  ⟨⟨_, rfl⟩, ⟨_, rfl⟩, ⟨_, rfl⟩⟩

theorem witness_RunningBindingIsFixed : bothOn.led.state = .running ∧ bothOn.aud.state = .running := by decide

theorem witness_ClaimsAreNeverReleased_pins : ArenaInv bothOn ∧ drivenLevel bothOn 16 ≠ none ∧
    ArenaInv State.reset ∧ State.reset.led.state = .uninit ∧ State.reset.aud.state = .uninit :=
  ⟨witness_ArenaInv, by decide, by constructor <;> decide, rfl, rfl⟩

/-- The levels on the pins of a block with both drivers RUNNING: LED on 16, BCLK, WS and DATA on 10 to 12 (R65). -/
theorem test_driven_levels : [16, 10, 11, 12, 13].map
    (drivenLevel { bothOn with aud := { bothOn.aud with bclk := some true } }) =
      [some false, some true, some false, none, none] := by decide

theorem witness_ClaimsAreNeverReleased : bothOn.chanClaimed[1]? = some true ∧ bothOn.pinClaimed[16]? = some true := by
  decide

end Sys2Proof.Tests
end

section
/-! SUPPORT. The turns of the two channels: what a turn given to a channel runs, what the micro-operations of the two
programs do, and how runs of turns compose (R16, R150 to R157, R188 to R198, R245). -/

namespace Sys2Proof.Machine

open Sys2Proof.Claims

/-! ## Runs -/

/-- A tick that goes on is the first of a run. -/
theorem ticks_succ {a : Agent} {s t : State} (h : tick a s = .next t) (n : Nat) : ticks a (n + 1) s = ticks a n t := by
  simp only [ticks, h]

/-- A run of two ticks. -/
theorem ticks_two {a : Agent} {s t u : State} (ht : tick a s = .next t) (hu : tick a t = .next u) :
    ticks a 2 s = some u :=
  (ticks_succ ht 1).trans (ticks_succ hu 0)

/-- A run goes on where a first part of it ended. -/
theorem ticks_add {a : Agent} {m : Nat} {s t : State} (h : ticks a m s = some t) (n : Nat) :
    ticks a (m + n) s = ticks a n t := by
  induction m generalizing s with
  | zero =>
    cases h
    rw [Nat.zero_add]
  | succ m ih =>
    rw [Nat.succ_add]
    simp only [ticks] at h ⊢
    cases htick : tick a s with
    | next u =>
      rw [htick] at h
      exact ih h
    | fault f =>
      rw [htick] at h
      cases h
    | refused r =>
      rw [htick] at h
      cases h

/-! ## What a channel's turn runs -/

/-- The fetch of a step of the channel's own program (R150, R188). -/
theorem fetchMicro_eq_run {prog : List Micro} {pc : Nat} {mine : Instr → Bool} {i : Instr}
    (hstep : prog[pc]?.bind decodeMicro = some i) (hmine : mine i = true) (outside : Fault) (s : State) :
    fetchMicro prog pc mine outside s = .run i s := by
  obtain ⟨w, hw, hdec⟩ := Option.bind_eq_some_iff.mp hstep
  simp only [fetchMicro, hw, hdec, hmine, if_true]

/-- A turn of the RUNNING LED channel outside a delay runs the step at `led.pc` (R150). -/
theorem step_led_eq_exec {s : State} {i : Instr} (hturn : nextAgent s = .led) (hrun : s.led.state = .running)
    (hdly : s.led.dly = 0) (hstep : s.led.prog[s.led.pc]?.bind decodeMicro = some i) (hmine : i.isLedStep = true) :
    step s = exec i { s with env := turnTaken s.env } := by
  have hfetch : fetchLed (takeTurn s) = .run i (takeTurn s) := by
    unfold fetchLed
    exact (if_neg (not_not_intro hrun)).trans <| (if_neg (Nat.not_lt.mpr hdly.le)).trans <|
      fetchMicro_eq_run hstep hmine _ _
  simp only [step, fetch, hturn, hfetch]
  rfl

/-- A turn of the RUNNING LED channel in a delay only counts it down (R155). -/
theorem step_led_eq_delay {s : State} (hturn : nextAgent s = .led) (hrun : s.led.state = .running)
    (hdly : 0 < s.led.dly) :
    step s = .next { s with led := { s.led with dly := s.led.dly - 1 }, env := turnTaken s.env } := by
  have hfetch : fetchLed (takeTurn s) = .settled (ledDelayTick (takeTurn s)) := by
    unfold fetchLed
    exact (if_neg (not_not_intro hrun)).trans (if_pos hdly)
  simp only [step, fetch, hturn, hfetch]
  rfl

/-- A turn of the RUNNING audio channel runs the step at `aud.pc` (R189). -/
theorem step_audio_eq_exec {s : State} {i : Instr} (hturn : nextAgent s = .audio) (hrun : s.aud.state = .running)
    (hstep : s.aud.prog[s.aud.pc]?.bind decodeMicro = some i) (hmine : i.isAudioStep = true) :
    step s = exec i { s with env := turnTaken s.env } := by
  have hfetch : fetchAudio (takeTurn s) = .run i (takeTurn s) := by
    unfold fetchAudio
    exact (if_neg (not_not_intro hrun)).trans (fetchMicro_eq_run hstep hmine _ _)
  simp only [step, fetch, hturn, hfetch]
  rfl

/-! ## The micro-operations of the LED program -/

/-- The word SHIFT_OUT takes its bit from: the register, or the head of the queue once 24 bits have gone (R151). -/
def shiftWord (l : LedState) : Word := if l.osrCnt = 24 then l.txq.headD 0#32 else l.osr

/-- The LED channel's registers once SHIFT_OUT has sent a bit (R151). -/
def shiftedOut (l : LedState) : LedState :=
  { l with
    txq := if l.osrCnt = 24 then l.txq.tail else l.txq, bitv := (shiftWord l).getLsbD 31, osr := shiftWord l <<< 1,
    osrCnt := if l.osrCnt = 24 then 1 else l.osrCnt + 1 }

/-- The bit about to be sent is bit 31 of the word SHIFT_OUT takes it from. -/
theorem shiftedOut_bitv {l : LedState} {bit : Bool} (h : comingBit l = some bit) : (shiftedOut l).bitv = bit := by
  change (shiftWord l).getLsbD 31 = bit
  by_cases hcnt : l.osrCnt = 24
  · cases hq : l.txq with
    | nil => simp [comingBit, hcnt, hq] at h
    | cons word rest => simpa [comingBit, shiftWord, hcnt, hq] using h
  · simpa [comingBit, shiftWord, hcnt] using h

/-- SHIFT_OUT with a bit to send does not stall (R151). -/
theorem shiftOut_of_comingBit {s : State} {bit : Bool} (h : comingBit s.led = some bit) :
    shiftOut s = some (s.setLed (shiftedOut s.led)) := by
  by_cases hcnt : s.led.osrCnt = 24
  · cases hq : s.led.txq with
    | nil => simp [comingBit, hcnt, hq] at h
    | cons word rest => simp [shiftOut, shiftedOut, shiftWord, ledShift, Config.pixelBits, hcnt, hq]
  · simp [shiftOut, shiftedOut, shiftWord, ledShift, Config.pixelBits, hcnt]

section LedOps
variable (side : BitVec 2) (delay : BitVec 3) (operand : BitVec 8) (s : State)

/-- SHIFT_OUT with a bit to send: the side-band, the registers shifted, the next step (R151). -/
theorem exec_seqShiftOut_of_comingBit {s : State} {bit : Bool} (h : comingBit s.led = some bit) :
    exec (.seqShiftOut side delay operand) s = .next { s with led := { shiftedOut s.led with
      out := some (side.getLsbD 0), pc := nextIndex s.led.prog s.led.pc, dly := delay.toNat } } := by
  change execSeqShiftOut side delay s = _
  simp only [execSeqShiftOut, shiftOut_of_comingBit (s := driveLed side s) h]
  rfl

/-- BRZ: the side-band, and to `operand` when `led.bitv` = 0 (R152). -/
theorem exec_seqBrz : exec (.seqBrz side delay operand) s = .next { s with led := { s.led with
    out := some (side.getLsbD 0), pc := if s.led.bitv then nextIndex s.led.prog s.led.pc else operand.toNat,
    dly := delay.toNat } } := rfl

/-- JUMP: the side-band, and to `operand` (R153). -/
theorem exec_seqJump : exec (.seqJump side delay operand) s = .next { s with led := { s.led with
    out := some (side.getLsbD 0), pc := operand.toNat, dly := delay.toNat } } := rfl

/-- NOP: the side-band, and the next step (R154). -/
theorem exec_seqNop : exec (.seqNop side delay operand) s = .next { s with led := { s.led with
    out := some (side.getLsbD 0), pc := nextIndex s.led.prog s.led.pc, dly := delay.toNat } } := rfl

end LedOps

/-! ## The micro-operations of the audio program -/

/-- The inputs once a DATA bit is drawn (R199). -/
def bitDrawn (e : Env) : Env := { e with dataIn := e.dataIn.tail, bitDraws := e.bitDraws + 1 }

section AudioOps
variable (side : BitVec 2) (delay : BitVec 3) (operand : BitVec 8) {s : State}

/-- SAMPLE short of the W-th bit: the side-band, one bit into the register, the next step (R198). -/
theorem exec_seqSample_within (h : s.aud.isrCnt + 1 < s.aud.w.bits) :
    exec (.seqSample side delay operand) s = .next { s with
      aud := { s.aud with
        bclk := some (side.getLsbD 0), ws := some (side.getLsbD 1),
        isr := s.aud.isr.shiftConcat (dataLevel s), isrCnt := s.aud.isrCnt + 1, pc := nextIndex s.aud.prog s.aud.pc },
      env := bitDrawn s.env } := by
  change execSeqSample side s = _
  have hnone : sample (driveAudio side s) ≠ none := fun hn => by
    have hlast : s.aud.isrCnt = s.aud.w.bits - 1 := (sample_eq_none.mp hn).1
    omega
  obtain ⟨t, ht⟩ := Option.ne_none_iff_exists'.mp hnone
  obtain ⟨-, rfl⟩ | ⟨hlast, -⟩ := sample_eq_some ht
  · simp only [execSeqSample, ht]
    rfl
  · exact absurd (show s.aud.isrCnt + 1 = s.aud.w.bits from hlast) (Nat.ne_of_lt h)

/-- SAMPLE of the W-th bit with room in the queue: the side-band, the left-aligned word pushed, the register emptied, the
next step (R198). -/
theorem exec_seqSample_pushes (h : s.aud.isrCnt + 1 = s.aud.w.bits) (hroom : s.aud.rxq.length ≠ 8) :
    exec (.seqSample side delay operand) s = .next { s with
      aud := { s.aud with
        bclk := some (side.getLsbD 0), ws := some (side.getLsbD 1), isr := 0#32, isrCnt := 0,
        rxq := s.aud.rxq ++ [rawWord (s.aud.isr.shiftConcat (dataLevel s)) s.aud.w],
        pc := nextIndex s.aud.prog s.aud.pc },
      env := bitDrawn s.env } := by
  change execSeqSample side s = _
  have hnone : sample (driveAudio side s) ≠ none := fun hn => hroom (sample_eq_none.mp hn).2
  obtain ⟨t, ht⟩ := Option.ne_none_iff_exists'.mp hnone
  obtain ⟨hwithin, -⟩ | ⟨-, rfl⟩ := sample_eq_some ht
  · exact absurd h hwithin
  · simp only [execSeqSample, ht]
    rfl

/-- LOOP with `aud.cnt` ≠ 0: the side-band, the counter down by one, back to `operand` (R191, R195). -/
theorem exec_seqLoop_back (h : s.aud.cnt ≠ 0) :
    exec (.seqLoop side delay operand) s = .next { s with aud := { s.aud with
      bclk := some (side.getLsbD 0), ws := some (side.getLsbD 1), cnt := s.aud.cnt - 1, pc := operand.toNat } } :=
  if_pos h

/-- LOOP with `aud.cnt` = 0: the side-band, and the next step (R191, R195). -/
theorem exec_seqLoop_out (h : s.aud.cnt = 0) :
    exec (.seqLoop side delay operand) s = .next { s with aud := { s.aud with
      bclk := some (side.getLsbD 0), ws := some (side.getLsbD 1), pc := nextIndex s.aud.prog s.aud.pc } } :=
  if_neg (not_not_intro h)

/-- SET_CNT: the side-band, the operand into the counter, the next step (R193, R197). -/
theorem exec_seqSetCnt (s : State) :
    exec (.seqSetCnt side delay operand) s = .next { s with aud := { s.aud with
      bclk := some (side.getLsbD 0), ws := some (side.getLsbD 1), cnt := operand.toNat,
      pc := nextIndex s.aud.prog s.aud.pc } } := rfl

end AudioOps

end Sys2Proof.Machine
end

section
/-! SUPPORT. The LED channel tick by tick: the steps of its program, one symbol, one pixel word (R68, R101, R150 to
R156). -/

namespace Sys2Proof.Machine

open Sys2Proof.Claims

/-! ## Ticks of the LED channel -/

/-- `s` with the LED channel at `l`, after `n` turns given to it. -/
def ledLater (s : State) (l : LedState) (n : Nat) : State :=
  { s with led := l, env := { s.env with turns := s.env.turns + n } }

@[simp] theorem ledLater_led (s : State) (l : LedState) (n : Nat) : (ledLater s l n).led = l := rfl

@[simp] theorem ledLater_ledLater (s : State) (l l' : LedState) (n n' : Nat) :
    ledLater (ledLater s l n) l' n' = ledLater s l' (n + n') := by
  simp only [ledLater, Nat.add_assoc]

/-- A tick of the RUNNING LED channel outside a delay runs the step at `led.pc` (R150). -/
theorem tick_led_eq_exec {s : State} {i : Instr} (hrun : s.led.state = .running) (hdly : s.led.dly = 0)
    (hstep : s.led.prog[s.led.pc]?.bind decodeMicro = some i) (hmine : i.isLedStep = true) :
    tick .led s = exec i (ledLater s s.led 1) :=
  step_led_eq_exec (s := grantTurn .led s) rfl hrun hdly hstep hmine

/-- A delay tick of the RUNNING LED channel (R155). -/
theorem tick_led_eq_delay {s : State} (hrun : s.led.state = .running) (hdly : 0 < s.led.dly) :
    tick .led s = .next (ledLater s { s.led with dly := s.led.dly - 1 } 1) :=
  step_led_eq_delay (s := grantTurn .led s) rfl hrun hdly

/-- Within a delay only the delay counter moves (R155). -/
theorem ticks_led_delay {s : State} {k : Nat} (hrun : s.led.state = .running) (hk : k ≤ s.led.dly) :
    ticks .led k s = some (ledLater s { s.led with dly := s.led.dly - k } k) := by
  induction k generalizing s with
  | zero => rfl
  | succ k ih =>
    have hrest := ih (s := ledLater s { s.led with dly := s.led.dly - 1 } 1) hrun (Nat.le_sub_one_of_lt hk)
    rw [ticks_succ (tick_led_eq_delay hrun (Nat.zero_lt_of_lt hk)), hrest, ledLater_ledLater, ledLater_led,
      Nat.sub_sub, Nat.add_comm 1 k]

/-- A step and the first ticks of the delay it loads (R28, R155). -/
theorem ticks_led_step {s : State} {l : LedState} {k : Nat} (htick : tick .led s = .next (ledLater s l 1))
    (hrun : l.state = .running) (hk : k ≤ l.dly) :
    ticks .led (k + 1) s = some (ledLater s { l with dly := l.dly - k } (k + 1)) := by
  rw [ticks_succ htick, ticks_led_delay (s := ledLater s l 1) hrun hk, ledLater_ledLater, ledLater_led,
    Nat.add_comm 1 k]

/-! ## The steps of the LED program -/

theorem ledProgram_bitFetch : ledProgram[0]?.bind decodeMicro = some (.seqShiftOut 0#2 1#3 1#8) := by decide
theorem ledProgram_bitTest : ledProgram[1]?.bind decodeMicro = some (.seqBrz 1#2 2#3 3#8) := by decide
theorem ledProgram_oneTail : ledProgram[2]?.bind decodeMicro = some (.seqJump 1#2 4#3 0#8) := by decide
theorem ledProgram_zeroTail : ledProgram[3]?.bind decodeMicro = some (.seqNop 0#2 4#3 0#8) := by decide

section Steps
variable {s : State}

/-- `bit_fetch` with a bit to send (R151). -/
theorem tick_bitFetch {bit : Bool} (hrun : s.led.state = .running) (hprog : s.led.prog = ledProgram)
    (hpc : s.led.pc = 0) (hdly : s.led.dly = 0) (hbit : comingBit s.led = some bit) :
    tick .led s = .next (ledLater s { shiftedOut s.led with out := some false, pc := 1, dly := 1 } 1) := by
  have hstep : s.led.prog[s.led.pc]?.bind decodeMicro = some (.seqShiftOut 0#2 1#3 1#8) := by
    rw [hprog, hpc, ledProgram_bitFetch]
  rw [tick_led_eq_exec hrun hdly hstep rfl,
    exec_seqShiftOut_of_comingBit (s := ledLater s s.led 1) _ _ _ hbit, ledLater_led, hprog, hpc]
  rfl

/-- `bit_test` goes to `one_tail` or `zero_tail` as `led.bitv` says (R152). -/
theorem tick_bitTest (hrun : s.led.state = .running) (hprog : s.led.prog = ledProgram) (hpc : s.led.pc = 1)
    (hdly : s.led.dly = 0) :
    tick .led s = .next (ledLater s
      { s.led with out := some true, pc := if s.led.bitv then 2 else 3, dly := 2 } 1) := by
  have hstep : s.led.prog[s.led.pc]?.bind decodeMicro = some (.seqBrz 1#2 2#3 3#8) := by
    rw [hprog, hpc, ledProgram_bitTest]
  rw [tick_led_eq_exec hrun hdly hstep rfl, exec_seqBrz, ledLater_led, hprog, hpc]
  rfl

/-- `one_tail` and `zero_tail` keep LEDOUT at the bit sent and go back to `bit_fetch` (R153, R154). -/
theorem tick_tail (hrun : s.led.state = .running) (hprog : s.led.prog = ledProgram)
    (hpc : s.led.pc = if s.led.bitv then 2 else 3) (hdly : s.led.dly = 0) :
    tick .led s = .next (ledLater s { s.led with out := some s.led.bitv, pc := 0, dly := 4 } 1) := by
  cases hbit : s.led.bitv with
  | true =>
    have hstep : s.led.prog[s.led.pc]?.bind decodeMicro = some (.seqJump 1#2 4#3 0#8) := by
      rw [hprog, hpc, hbit, if_pos rfl, ledProgram_oneTail]
    rw [tick_led_eq_exec hrun hdly hstep rfl, exec_seqJump]
    rfl
  | false =>
    have hpc : s.led.pc = 3 := by rw [hpc, hbit, if_neg Bool.false_ne_true]
    have hstep : s.led.prog[s.led.pc]?.bind decodeMicro = some (.seqNop 0#2 4#3 0#8) := by
      rw [hprog, hpc, ledProgram_zeroTail]
    rw [tick_led_eq_exec hrun hdly hstep rfl, exec_seqNop, ledLater_led, hprog, hpc]
    rfl

end Steps

/-! ## One symbol -/

/-- The RUNNING LED channel about to send `bit` (R151). -/
structure AtBitFetch (l : LedState) (bit : Bool) : Prop where
  running : l.state = .running
  program : l.prog = ledProgram
  index : l.pc = 0
  delay : l.dly = 0
  coming : comingBit l = some bit

/-- The LED channel inside the symbol that began at `l`: LEDOUT, the step and the delay left. -/
def inSymbol (l : LedState) (level : Bool) (pc dly : Nat) : LedState :=
  { shiftedOut l with out := some level, pc := pc, dly := dly }

section Symbol
variable {s : State} {bit : Bool} {k : Nat}

/-- The first two ticks of a symbol are low (R151). -/
theorem ticks_symbol_low (h : AtBitFetch s.led bit) (hk : k < 2) :
    ticks .led (k + 1) s = some (ledLater s (inSymbol s.led false 1 (1 - k)) (k + 1)) :=
  ticks_led_step (tick_bitFetch h.running h.program h.index h.delay h.coming) h.running (Nat.le_of_lt_succ hk)

/-- The next three ticks are high (R152). -/
theorem ticks_symbol_high (h : AtBitFetch s.led bit) (hk : k < 3) :
    ticks .led (2 + (k + 1)) s =
      some (ledLater s (inSymbol s.led true (if bit then 2 else 3) (2 - k)) (2 + (k + 1))) := by
  have htest := tick_bitTest (s := ledLater s (inSymbol s.led false 1 0) 2) h.running h.program rfl rfl
  rw [ticks_add (ticks_symbol_low h (k := 1) (by omega)),
    ticks_led_step htest h.running (Nat.le_of_lt_succ hk), ledLater_ledLater, ← shiftedOut_bitv h.coming]
  rfl

/-- The last five ticks have the level of the bit (R153, R154). -/
theorem ticks_symbol_tail (h : AtBitFetch s.led bit) (hk : k < 5) :
    ticks .led (5 + (k + 1)) s = some (ledLater s (inSymbol s.led bit 0 (4 - k)) (5 + (k + 1))) := by
  have hbitv := shiftedOut_bitv h.coming
  have htail := tick_tail (s := ledLater s (inSymbol s.led true (if bit then 2 else 3) 0) 5) h.running h.program
    (by rw [← hbitv]; rfl) rfl
  rw [ticks_add (ticks_symbol_high h (k := 2) (by omega)),
    ticks_led_step htail h.running (Nat.le_of_lt_succ hk), ledLater_ledLater, ← hbitv]
  rfl

/-- LEDOUT at tick `k` of a symbol (R156). -/
theorem ticks_symbol_level (h : AtBitFetch s.led bit) (hk : k < 10) :
    ∃ t, ticks .led (k + 1) s = some t ∧ t.led.out = some (symbolLevel bit k) := by
  by_cases hlow : k < 2
  · refine ⟨_, ticks_symbol_low h hlow, ?_⟩
    simp [inSymbol, symbolLevel, show ¬2 ≤ k by omega]
  · by_cases hhigh : k < 5
    · obtain ⟨j, rfl⟩ := Nat.exists_eq_add_of_le (Nat.le_of_not_lt hlow)
      refine ⟨_, ticks_symbol_high h (k := j) (by omega), ?_⟩
      simp [inSymbol, symbolLevel, hhigh]
    · obtain ⟨j, rfl⟩ := Nat.exists_eq_add_of_le (Nat.le_of_not_lt hhigh)
      refine ⟨_, ticks_symbol_tail h (k := j) (by omega), ?_⟩
      simp [inSymbol, symbolLevel, show 2 ≤ 5 + j by omega]

/-- A symbol takes ten ticks, after which the channel is at `bit_fetch` again with one bit less to send (R156). -/
theorem ticks_symbol (h : AtBitFetch s.led bit) :
    ticks .led 10 s = some (ledLater s (inSymbol s.led bit 0 0) 10) :=
  ticks_symbol_tail h (k := 4) (by omega)

end Symbol

/-! ## One pixel word -/

/-- The RUNNING LED channel at `bit_fetch` once `n` bits of `word` are sent, with `rest` queued behind it: none sent yet
and the word at the head of the queue, or the word in the register (R68, R101). -/
structure AtWordBit (word : Word) (rest : List Word) (n : Nat) (l : LedState) : Prop where
  running : l.state = .running
  program : l.prog = ledProgram
  index : l.pc = 0
  delay : l.dly = 0
  register : (n = 0 ∧ l.osrCnt = 24 ∧ l.txq = word :: rest) ∨
    (0 < n ∧ l.osrCnt = n ∧ l.osr = word <<< n ∧ l.txq = rest)

section PixelWord
variable {word : Word} {rest : List Word} {n : Nat} {l : LedState}

/-- The word SHIFT_OUT takes its bit from is `word` shifted past the bits sent. -/
theorem AtWordBit.shiftWord_eq (h : AtWordBit word rest n l) (hn : n < 24) : shiftWord l = word <<< n := by
  obtain ⟨rfl, hcnt, hq⟩ | ⟨-, hcnt, hosr, -⟩ := h.register
  · simp [shiftWord, hcnt, hq]
  · rw [shiftWord, if_neg (by omega), hosr]

/-- The bit to send after `n` others is bit `31 − n` (R68). -/
theorem AtWordBit.atBitFetch (h : AtWordBit word rest n l) (hn : n < 24) :
    AtBitFetch l (word.getLsbD (31 - n)) := by
  refine ⟨h.running, h.program, h.index, h.delay, ?_⟩
  obtain ⟨rfl, hcnt, hq⟩ | ⟨-, hcnt, hosr, -⟩ := h.register
  · simp only [comingBit, hcnt, hq, if_true, List.head?_cons, Option.map_some]
  · have hbit : l.osr.getLsbD 31 = word.getLsbD (31 - n) := by
      rw [hosr, BitVec.getLsbD_shiftLeft]
      simp only [Nat.lt_add_one, decide_true, Bool.true_and, show ¬31 < n by omega, decide_false, Bool.not_false]
    rw [comingBit, if_neg (by omega), hbit]

/-- A symbol sends one bit of the word. -/
theorem AtWordBit.succ (h : AtWordBit word rest n l) (hn : n < 24) (level : Bool) :
    AtWordBit word rest (n + 1) (inSymbol l level 0 0) := by
  refine ⟨h.running, h.program, rfl, rfl, .inr ⟨n.succ_pos, ?_, ?_, ?_⟩⟩
  · change (if l.osrCnt = 24 then 1 else l.osrCnt + 1) = n + 1
    obtain ⟨rfl, hcnt, -⟩ | ⟨-, hcnt, -⟩ := h.register
    · rw [if_pos hcnt]
    · rw [if_neg (by omega), hcnt]
  · change shiftWord l <<< 1 = word <<< (n + 1)
    rw [h.shiftWord_eq hn, BitVec.shiftLeft_add]
  · change (if l.osrCnt = 24 then l.txq.tail else l.txq) = rest
    obtain ⟨-, hcnt, hq⟩ | ⟨-, hcnt, -, hq⟩ := h.register
    · rw [if_pos hcnt, hq, List.tail_cons]
    · rw [if_neg (by omega), hq]

/-- Ten ticks for each bit sent. -/
theorem ticks_wordBits {s : State} (h : AtWordBit word rest 0 s.led) (hn : n ≤ 24) :
    ∃ t, ticks .led (10 * n) s = some t ∧ AtWordBit word rest n t.led := by
  induction n with
  | zero => exact ⟨s, rfl, h⟩
  | succ n ih =>
    obtain ⟨t, ht, hat⟩ := ih (Nat.le_of_succ_le hn)
    have hsymbol := ticks_symbol (hat.atBitFetch hn)
    exact ⟨_, (ticks_add ht 10).trans hsymbol, hat.succ hn _⟩

end PixelWord

end Sys2Proof.Machine

namespace Sys2Proof.Proofs

open Sys2Proof.Machine Sys2Proof.Claims

/-- Settles O45: the word's bits are sent one by one (`ticks_wordBits`), each as one symbol (`ticks_symbol_level`). -/
theorem pixelWaveform : Obligations.PixelWaveform := by
  intro s word rest hrun hprog hpc hdly hcnt hq
  have hstart : AtWordBit word rest 0 s.led := ⟨hrun, hprog, hpc, hdly, .inl ⟨rfl, hcnt, hq⟩⟩
  constructor
  · intro n hn k hk
    obtain ⟨t, ht, hat⟩ := ticks_wordBits hstart hn.le
    obtain ⟨u, hu, hout⟩ := ticks_symbol_level (hat.atBitFetch hn) hk
    exact ⟨u, (ticks_add ht (k + 1)).trans hu, hout⟩
  · obtain ⟨t, ht, hat⟩ := ticks_wordBits hstart le_rfl
    obtain ⟨hn, -⟩ | ⟨-, hcnt', -, hq'⟩ := hat.register
    · exact absurd hn (by decide)
    · exact ⟨t, ht, hat.index, hat.delay, hcnt', hq'⟩

end Sys2Proof.Proofs
end

section
/-! SUPPORT. The audio channel tick by tick: the steps of its program, one bit, one phase (R69, R102, R188 to R200). The two
phases of a frame run the same four steps, the right one from step 4 and with WS the other way round (R109). -/

namespace Sys2Proof.Machine

open Sys2Proof.Claims

/-! ## Ticks of the audio channel -/

/-- `s` with the audio channel at `a`, after `n` turns given to it that drew `drawn` DATA bits. -/
def audLater (s : State) (a : AudioState) (drawn n : Nat) : State :=
  { s with
    aud := a,
    env := { s.env with
      dataIn := s.env.dataIn.drop drawn, bitDraws := s.env.bitDraws + drawn, turns := s.env.turns + n } }

@[simp] theorem audLater_aud (s : State) (a : AudioState) (d n : Nat) : (audLater s a d n).aud = a := rfl

@[simp] theorem audLater_dataIn (s : State) (a : AudioState) (d n : Nat) :
    (audLater s a d n).env.dataIn = s.env.dataIn.drop d := rfl

@[simp] theorem audLater_audLater (s : State) (a a' : AudioState) (d d' n n' : Nat) :
    audLater (audLater s a d n) a' d' n' = audLater s a' (d + d') (n + n') := by
  simp only [audLater, List.drop_drop, Nat.add_assoc]

/-- A tick of the RUNNING audio channel runs the step at `aud.pc` (R189). -/
theorem tick_audio_eq_exec {s : State} {i : Instr} (hrun : s.aud.state = .running)
    (hstep : s.aud.prog[s.aud.pc]?.bind decodeMicro = some i) (hmine : i.isAudioStep = true) :
    tick .audio s = exec i (audLater s s.aud 0 1) :=
  step_audio_eq_exec (s := grantTurn .audio s) rfl hrun hstep hmine

/-- The level drawn is the next one listed (R199). -/
theorem dataLevel_of_cons {s : State} {bit : Bool} {rest : List Bool} (h : s.env.dataIn = bit :: rest) :
    dataLevel s = bit := by
  simp only [dataLevel, h]

/-- The inputs after a tick that drew a bit. -/
theorem bitDrawn_audLater (s : State) : bitDrawn (audLater s s.aud 0 1).env = (audLater s s.aud 1 1).env := by
  simp only [audLater, bitDrawn, List.drop_zero, List.drop_one, Nat.add_zero]

/-! ## The steps of the audio program -/

/-- Where a phase begins: the left one at step 0, the right one at step 4 (R109). -/
def phaseStart (right : Bool) : Nat := if right then 4 else 0

/-- The side-band of a microword that sets BCLK and WS so (R107). -/
def audioSide (bclk ws : Bool) : BitVec 2 := BitVec.ofBool ws ++ BitVec.ofBool bclk

@[simp] theorem audioSide_getLsbD_zero (bclk ws : Bool) : (audioSide bclk ws).getLsbD 0 = bclk := by
  cases bclk <;> cases ws <;> rfl

@[simp] theorem audioSide_getLsbD_one (bclk ws : Bool) : (audioSide bclk ws).getLsbD 1 = ws := by
  cases bclk <;> cases ws <;> rfl

section Program
variable (w : SampleWidth) (right : Bool)

theorem audioProgram_smp : (audioProgram w)[phaseStart right]?.bind decodeMicro =
    some (.seqSample (audioSide false right) 0#3 1#8) := by
  cases right <;> rfl

theorem audioProgram_clk : (audioProgram w)[phaseStart right + 1]?.bind decodeMicro =
    some (.seqLoop (audioSide true right) 0#3 (BitVec.ofNat 8 (phaseStart right))) := by
  cases right <;> rfl

theorem audioProgram_lastSmp : (audioProgram w)[phaseStart right + 2]?.bind decodeMicro =
    some (.seqSample (audioSide false !right) 0#3 1#8) := by
  cases right <;> rfl

theorem audioProgram_lastClk : (audioProgram w)[phaseStart right + 3]?.bind decodeMicro =
    some (.seqSetCnt (audioSide true !right) 0#3 (BitVec.ofNat 8 (w.bits - 2))) := by
  cases right <;> cases w <;> rfl

/-- Steps follow each other within a phase (R107). -/
theorem nextIndex_within {k : Nat} (hk : k < 3) :
    nextIndex (audioProgram w) (phaseStart right + k) = phaseStart right + k + 1 := by
  have hstart : phaseStart right ≤ 4 := by cases right <;> decide
  refine if_pos ?_
  change phaseStart right + k + 1 < 8
  omega

/-- The other phase follows the last step of a phase (R107). -/
theorem nextIndex_last : nextIndex (audioProgram w) (phaseStart right + 3) = phaseStart !right := by
  cases right <;> rfl

end Program

/-- The RUNNING audio channel at step `k` of a phase (R27, R188). -/
structure AtPhaseStep (a : AudioState) (right : Bool) (k : Nat) : Prop where
  running : a.state = .running
  program : a.prog = audioProgram a.w
  index : a.pc = phaseStart right + k

section Steps
variable {s : State} {right : Bool}

/-- A tick at step `k` of a phase runs that step of the program. -/
theorem AtPhaseStep.tick_eq {k : Nat} {i : Instr} (h : AtPhaseStep s.aud right k)
    (hstep : (audioProgram s.aud.w)[phaseStart right + k]?.bind decodeMicro = some i) (hmine : i.isAudioStep = true) :
    tick .audio s = exec i (audLater s s.aud 0 1) := by
  refine tick_audio_eq_exec h.running ?_ hmine
  rw [h.program, h.index, hstep]

/-- The step after step `k` of a phase. -/
theorem AtPhaseStep.nextIndex_eq {k : Nat} (h : AtPhaseStep s.aud right k) (hk : k < 3) :
    nextIndex s.aud.prog s.aud.pc = phaseStart right + (k + 1) := by
  rw [h.program, h.index, nextIndex_within _ _ hk, Nat.add_assoc]

/-- `smp` short of the W-th bit: BCLK low, a bit taken (R190, R194, R198). -/
theorem tick_smp (h : AtPhaseStep s.aud right 0) (hcnt : s.aud.isrCnt + 1 < s.aud.w.bits) :
    tick .audio s = .next (audLater s { s.aud with
      bclk := some false, ws := some right, isr := s.aud.isr.shiftConcat (dataLevel s), isrCnt := s.aud.isrCnt + 1,
      pc := phaseStart right + 1 } 1 1) := by
  rw [h.tick_eq (audioProgram_smp _ _) rfl, exec_seqSample_within (s := audLater s s.aud 0 1) _ _ _ hcnt,
    bitDrawn_audLater, audLater_aud, h.nextIndex_eq (by decide), audioSide_getLsbD_zero, audioSide_getLsbD_one]
  rfl

/-- `clk` with the counter above zero: BCLK high, back for the next bit (R191, R195). -/
theorem tick_clk_back (h : AtPhaseStep s.aud right 1) (hcnt : s.aud.cnt ≠ 0) :
    tick .audio s = .next (audLater s { s.aud with
      bclk := some true, ws := some right, cnt := s.aud.cnt - 1, pc := phaseStart right } 0 1) := by
  have htarget : (BitVec.ofNat 8 (phaseStart right)).toNat = phaseStart right := by cases right <;> rfl
  rw [h.tick_eq (audioProgram_clk _ _) rfl, exec_seqLoop_back (s := audLater s s.aud 0 1) _ _ _ hcnt,
    audLater_aud, htarget, audioSide_getLsbD_zero, audioSide_getLsbD_one]
  rfl

/-- `clk` with the counter at zero: BCLK high, on to the last bit (R191, R195). -/
theorem tick_clk_out (h : AtPhaseStep s.aud right 1) (hcnt : s.aud.cnt = 0) :
    tick .audio s = .next (audLater s { s.aud with
      bclk := some true, ws := some right, pc := phaseStart right + 2 } 0 1) := by
  rw [h.tick_eq (audioProgram_clk _ _) rfl, exec_seqLoop_out (s := audLater s s.aud 0 1) _ _ _ hcnt,
    audLater_aud, h.nextIndex_eq (by decide), audioSide_getLsbD_zero, audioSide_getLsbD_one]
  rfl

/-- `last_smp` with room in the queue: BCLK low, WS for the other phase, the last bit taken and the word pushed (R192,
R196, R198). -/
theorem tick_lastSmp (h : AtPhaseStep s.aud right 2) (hcnt : s.aud.isrCnt + 1 = s.aud.w.bits)
    (hroom : s.aud.rxq.length ≠ 8) :
    tick .audio s = .next (audLater s { s.aud with
      bclk := some false, ws := some !right, isr := 0#32, isrCnt := 0,
      rxq := s.aud.rxq ++ [rawWord (s.aud.isr.shiftConcat (dataLevel s)) s.aud.w],
      pc := phaseStart right + 3 } 1 1) := by
  rw [h.tick_eq (audioProgram_lastSmp _ _) rfl,
    exec_seqSample_pushes (s := audLater s s.aud 0 1) _ _ _ hcnt hroom,
    bitDrawn_audLater, audLater_aud, h.nextIndex_eq (by decide), audioSide_getLsbD_zero, audioSide_getLsbD_one]
  rfl

/-- `last_clk`: BCLK high, the counter reloaded, on to the other phase (R193, R197). -/
theorem tick_lastClk (h : AtPhaseStep s.aud right 3) :
    tick .audio s = .next (audLater s { s.aud with
      bclk := some true, ws := some !right, cnt := s.aud.w.bits - 2, pc := phaseStart !right } 0 1) := by
  have hcount : (BitVec.ofNat 8 (s.aud.w.bits - 2)).toNat = s.aud.w.bits - 2 := by cases s.aud.w <;> rfl
  rw [h.tick_eq (audioProgram_lastClk _ _) rfl, exec_seqSetCnt, audLater_aud, hcount, h.program, h.index,
    nextIndex_last, audioSide_getLsbD_zero, audioSide_getLsbD_one]
  rfl

end Steps

/-! ## One phase -/

section Phase
variable {s : State} {right : Bool}

/-- A bit of a phase that is neither its last nor the one before that: two ticks. -/
theorem ticks_bit_back (h : AtPhaseStep s.aud right 0) (hcnt : s.aud.isrCnt + 1 < s.aud.w.bits)
    (hloop : s.aud.cnt ≠ 0) :
    ticks .audio 2 s = some (audLater s { s.aud with
      bclk := some true, ws := some right, isr := s.aud.isr.shiftConcat (dataLevel s), isrCnt := s.aud.isrCnt + 1,
      cnt := s.aud.cnt - 1, pc := phaseStart right } 1 2) := by
  rw [ticks_two (tick_smp h hcnt) (tick_clk_back ⟨h.running, h.program, rfl⟩ hloop), audLater_audLater]
  rfl

/-- The last bit but one of a phase: two ticks. -/
theorem ticks_bit_out (h : AtPhaseStep s.aud right 0) (hcnt : s.aud.isrCnt + 1 < s.aud.w.bits)
    (hloop : s.aud.cnt = 0) :
    ticks .audio 2 s = some (audLater s { s.aud with
      bclk := some true, ws := some right, isr := s.aud.isr.shiftConcat (dataLevel s), isrCnt := s.aud.isrCnt + 1,
      pc := phaseStart right + 2 } 1 2) := by
  rw [ticks_two (tick_smp h hcnt) (tick_clk_out ⟨h.running, h.program, rfl⟩ hloop), audLater_audLater]
  rfl

/-- The audio channel before the last bit of a phase, once the loop has taken `bits` from where it stood at `a`. -/
def loopDone (a : AudioState) (right : Bool) (bits : List Bool) : AudioState :=
  { a with
    bclk := some true, ws := some right, isr := bits.foldl BitVec.shiftConcat a.isr, isrCnt := a.isrCnt + bits.length,
    cnt := 0, pc := phaseStart right + 2 }

/-- The loop of a phase: as many bits as the counter says and one more, two ticks each (R191, R195). -/
theorem ticks_loopBits {bits rest : List Bool} (h : AtPhaseStep s.aud right 0)
    (hlen : bits.length = s.aud.cnt + 1) (hcnt : s.aud.isrCnt + bits.length < s.aud.w.bits)
    (hdata : s.env.dataIn = bits ++ rest) :
    ticks .audio (2 * bits.length) s =
      some (audLater s (loopDone s.aud right bits) bits.length (2 * bits.length)) := by
  induction hc : s.aud.cnt generalizing s bits with
  | zero =>
    obtain ⟨bit, tail, rfl⟩ := List.exists_of_length_succ bits hlen
    obtain rfl : tail = [] := List.eq_nil_of_length_eq_zero (by simpa [hc] using hlen)
    rw [List.length_singleton] at hcnt
    simp only [loopDone, List.length_singleton, Nat.mul_one, List.foldl_cons, List.foldl_nil, ticks_bit_out h hcnt hc,
      dataLevel_of_cons hdata, hc]
  | succ c ih =>
    obtain ⟨bit, tail, rfl⟩ := List.exists_of_length_succ bits hlen
    rw [List.length_cons] at hlen hcnt
    have hlevel : dataLevel s = bit := dataLevel_of_cons hdata
    have hbit := ticks_bit_back h (by omega) (by omega)
    have hrest := ih (bits := tail) (s := audLater s { s.aud with
        bclk := some true, ws := some right, isr := s.aud.isr.shiftConcat bit, isrCnt := s.aud.isrCnt + 1,
        cnt := s.aud.cnt - 1, pc := phaseStart right } 1 2)
      ⟨h.running, h.program, rfl⟩ (by simp only [audLater_aud]; omega) (by simp only [audLater_aud]; omega)
      (by rw [audLater_dataIn, hdata]; rfl) (by simp only [audLater_aud, hc]; omega)
    rw [hlevel] at hbit
    rw [List.length_cons, Nat.mul_succ, Nat.add_comm, ticks_add hbit, hrest, audLater_audLater]
    simp only [loopDone, audLater_aud, List.foldl_cons, List.length_cons, Nat.add_comm, Nat.add_left_comm]

/-- The last bit of a phase: two ticks. -/
theorem ticks_lastBit (h : AtPhaseStep s.aud right 2) (hcnt : s.aud.isrCnt + 1 = s.aud.w.bits)
    (hroom : s.aud.rxq.length ≠ 8) :
    ticks .audio 2 s = some (audLater s { s.aud with
      bclk := some true, ws := some !right, isr := 0#32, isrCnt := 0,
      rxq := s.aud.rxq ++ [rawWord (s.aud.isr.shiftConcat (dataLevel s)) s.aud.w],
      cnt := s.aud.w.bits - 2, pc := phaseStart !right } 1 2) := by
  rw [ticks_two (tick_lastSmp h hcnt hroom) (tick_lastClk ⟨h.running, h.program, rfl⟩), audLater_audLater]
  rfl

theorem two_le_bits (w : SampleWidth) : 2 ≤ w.bits := by cases w <;> decide

/-- A phase from its start with room in the queue: 2W ticks, W bits, one word (R200). -/
theorem ticks_phase {bits rest : List Bool} (h : AtPhaseStep s.aud right 0) (hcnt : s.aud.cnt = s.aud.w.bits - 2)
    (hisr : s.aud.isrCnt = 0) (hroom : s.aud.rxq.length ≠ 8) (hdata : s.env.dataIn = bits ++ rest)
    (hlen : bits.length = s.aud.w.bits) :
    ticks .audio (2 * s.aud.w.bits) s = some (audLater s { s.aud with
      bclk := some true, ws := some !right, isr := 0#32, isrCnt := 0,
      rxq := s.aud.rxq ++ [rawWord (bits.foldl BitVec.shiftConcat s.aud.isr) s.aud.w],
      cnt := s.aud.w.bits - 2, pc := phaseStart !right } s.aud.w.bits (2 * s.aud.w.bits)) := by
  have hwidth := two_le_bits s.aud.w
  obtain rfl | ⟨init, last, rfl⟩ := List.eq_nil_or_concat' bits
  · rw [List.length_nil] at hlen
    omega
  · rw [List.length_append, List.length_singleton] at hlen
    rw [List.append_assoc] at hdata
    have hloop := ticks_loopBits h (by omega) (by omega) hdata
    have hlevel : ∀ a n, dataLevel (audLater s a init.length n) = last := fun a n =>
      dataLevel_of_cons (rest := rest) (by rw [audLater_dataIn, hdata, List.drop_left]; rfl)
    have hlast := ticks_lastBit (s := audLater s (loopDone s.aud right init) init.length (2 * init.length))
      ⟨h.running, h.program, rfl⟩ (show s.aud.isrCnt + init.length + 1 = s.aud.w.bits by omega) hroom
    rw [hlevel, audLater_audLater, audLater_aud] at hlast
    rw [← hlen, Nat.mul_succ, ticks_add hloop, hlast, List.foldl_append, hlen]
    rfl

end Phase

/-! ## The word of a phase -/

/-- A bit shifted into the register doubles the number it holds and adds the bit (R198). -/
theorem shiftConcat_ofNat (n : Nat) (bit : Bool) :
    (BitVec.ofNat 32 n).shiftConcat bit = BitVec.ofNat 32 (2 * n + bit.toNat) := by
  apply BitVec.eq_of_toNat_eq
  rw [BitVec.toNat_shiftConcat, BitVec.toNat_ofNat, BitVec.toNat_ofNat, Nat.shiftLeft_eq]
  omega

/-- The register after the bits of a list, the first of them the most significant (R102). -/
theorem foldl_shiftConcat_ofNat (bits : List Bool) (n : Nat) :
    bits.foldl BitVec.shiftConcat (BitVec.ofNat 32 n) =
      BitVec.ofNat 32 (bits.foldl (fun acc b => 2 * acc + b.toNat) n) := by
  induction bits generalizing n with
  | nil => rfl
  | cons bit bits ih => rw [List.foldl_cons, List.foldl_cons, shiftConcat_ofNat, ih]

/-- W bits shifted into the empty register and left-aligned are the raw word of those bits (R69, R102). -/
theorem rawWord_foldl_shiftConcat {bits : List Bool} {w : SampleWidth} (h : bits.length = w.bits) :
    rawWord (bits.foldl BitVec.shiftConcat 0#32) w = rawOfBits bits := by
  rw [foldl_shiftConcat_ofNat, rawWord, rawOfBits, h]
  apply BitVec.eq_of_toNat_eq
  rw [BitVec.toNat_shiftLeft, BitVec.toNat_ofNat, BitVec.toNat_ofNat, Nat.shiftLeft_eq, Nat.mod_mul_mod]

end Sys2Proof.Machine

namespace Sys2Proof.Proofs

open Sys2Proof.Machine Sys2Proof.Claims

/-- Settles O50: `ticks_phase`, for the phase that begins where the channel stands. -/
theorem phaseCapturesWord : Obligations.PhaseCapturesWord := by
  intro s bits rest hrun hprog hpc hcnt hisr hisrCnt hroom hdata hlen
  have hstart : AtPhaseStep s.aud (decide (s.aud.pc = 4)) 0 := by
    refine ⟨hrun, hprog, ?_⟩
    obtain hpc | hpc := hpc <;> rw [hpc] <;> rfl
  have hnext : phaseStart (!decide (s.aud.pc = 4)) = if s.aud.pc = 0 then 4 else 0 := by
    obtain hpc | hpc := hpc <;> rw [hpc] <;> rfl
  have hws : (!decide (s.aud.pc = 4)) = decide (s.aud.pc = 0) := by
    obtain hpc | hpc := hpc <;> rw [hpc] <;> rfl
  rw [ticks_phase hstart hcnt hisrCnt (Nat.ne_of_lt hroom) hdata hlen, hnext, hws]
  simp only [audLater, hdata, List.drop_left' hlen, hisr, hisrCnt, hcnt, rawWord_foldl_shiftConcat hlen]

end Sys2Proof.Proofs
end

section
/-! SUPPORT. Packets the host sends: headers written out field by field, which headers no row accepts, and what a host's
turn does with a packet (R91 to R94, R246). -/

namespace Sys2Proof

open Sys2Proof.Claims

/-! ## Headers written out -/

/-- A header whose `a` is written as a high half-word and a byte. -/
theorem header_append_two (op : BitVec 8) (x : BitVec 16) (y : BitVec 8) : (op ++ x ++ y : Word) = header op (x ++ y) :=
  BitVec.append_assoc

/-- A header whose `a` is written as three bytes. -/
theorem header_append_three (op r g b : BitVec 8) : (op ++ r ++ g ++ b : Word) = header op (r ++ g ++ b) := by
  rw [← header_append_two]
  exact congrArg (· ++ b) BitVec.append_assoc

/-! ## Packets read from their headers -/

section Packets
variable (ws : List Word)

/-- CFG_WR's packet (R93). -/
theorem decodePacket_cfgWr (idx : BitVec 8) (value : Word) :
    decodePacket ((0x01#8 ++ 0#16 ++ idx : Word) :: value :: ws) = .instr (.cfgWr idx value) ws := by
  rw [header_append_two, decodePacket_cons, headerOp_header, headerA_header]
  simp [decodeBody, decodeOne]

/-- SAMPLE_TO_FLOAT's packet (R93). -/
theorem decodePacket_sampleToFloat (w : BitVec 8) (x : Word) :
    decodePacket ((0x31#8 ++ 0#16 ++ w : Word) :: x :: ws) = .instr (.sampleToFloat w x) ws := by
  rw [header_append_two, decodePacket_cons, headerOp_header, headerA_header]
  simp [decodeBody, decodeOne]

/-- SET_COLOR's packet (R93). -/
theorem decodePacket_setColor (r g b : BitVec 8) :
    decodePacket ((0x11#8 ++ r ++ g ++ b : Word) :: ws) = .instr (.setColor (r ++ g ++ b)) ws := by
  simp [header_append_three, decodeBody]

/-- SET_RGB's packet (R93, R99). -/
theorem decodePacket_setRgb (r g b : BitVec 8) :
    decodePacket ((0x12#8 ++ r ++ g ++ b : Word) :: ws) = .instr (.setRgb r g b) ws := by
  simp [header_append_three, decodeBody]

end Packets

/-! ## Headers no row accepts -/

/-- The bits of a header under a mask, field by field. -/
theorem header_and (op op' : BitVec 8) (a a' : BitVec 24) :
    header op a &&& header op' a' = header (op &&& op') (a &&& a') :=
  BitVec.and_append

/-- A row that reads `op` alone accepts every header with its `op`. -/
theorem header_and_opMask (op : BitVec 8) (a : BitVec 24) : header op a &&& 0xFF000000#32 = header op 0#24 := by
  rw [show 0xFF000000#32 = header 0xFF#8 0#24 from rfl, header_and]
  exact congrArg₂ header BitVec.and_allOnes BitVec.and_zero

/-- A row that reads the whole header accepts the one with `a` = 0. -/
theorem header_and_fullMask (op : BitVec 8) (a : BitVec 24) : header op a &&& 0xFFFFFFFF#32 = header op a :=
  BitVec.and_allOnes

/-- `a` is its high half-word and its low byte. -/
theorem aHigh_append_aLow (a : BitVec 24) : (aHigh a ++ aLow a : BitVec 24) = a :=
  BitVec.extractLsb'_append_extractLsb' (w := 16) (len := 8)

/-- A row that leaves `a[7:0]` open accepts the headers with a zero `a[23:8]`. -/
theorem header_and_byteMask (op : BitVec 8) {a : BitVec 24} (h : aHigh a = 0#16) :
    header op a &&& 0xFFFFFF00#32 = header op 0#24 := by
  have hmask : a &&& 0xFFFF00#24 = 0#24 := by
    rw [← aHigh_append_aLow a, h, show 0xFFFF00#24 = 0xFFFF#16 ++ 0#8 from rfl, BitVec.and_append, BitVec.and_zero,
      BitVec.zero_and]
    rfl
  rw [show 0xFFFFFF00#32 = header 0xFF#8 0xFFFF00#24 from rfl, header_and, hmask]
  exact congrArg (header · 0#24) BitVec.and_allOnes

section NoRow
variable {op op' : BitVec 8} {a : BitVec 24} {ws : List Word} {taken after : PacketResult}

/-- A branch of the opcode map whose row reads `op` alone is not taken. -/
theorem opBranch_of_noRow (h : noRow (header op a)) (hrow : (header op' 0#24, 0xFF000000#32) ∈ commandRows)
    (hafter : after = .illegalHeader ws) : (if op = op' then taken else after) = .illegalHeader ws := by
  refine (if_neg ?_).trans hafter
  rintro rfl
  exact h _ hrow (header_and_opMask op a)

/-- A branch whose row asks for `a` = 0 is not taken, or finds another `a`. -/
theorem bareBranch_of_noRow (h : noRow (header op a)) (hrow : (header op' 0#24, 0xFFFFFFFF#32) ∈ commandRows)
    (hafter : after = .illegalHeader ws) :
    (if op = op' then (if a = 0#24 then taken else .illegalHeader ws) else after) = .illegalHeader ws := by
  split
  · subst op'
    refine if_neg ?_
    rintro rfl
    exact h _ hrow (header_and_fullMask op 0#24)
  · exact hafter

/-- A branch whose row asks for a zero `a[23:8]` is not taken, or finds a bit of it set. -/
theorem byteBranch_of_noRow (h : noRow (header op a)) (hrow : (header op' 0#24, 0xFFFFFF00#32) ∈ commandRows)
    (hafter : after = .illegalHeader ws) :
    (if op = op' then (if aHigh a = 0#16 then taken else .illegalHeader ws) else after) = .illegalHeader ws := by
  split
  · subst op'
    exact if_neg fun ha => h _ hrow (header_and_byteMask op ha)
  · exact hafter

/-- The opcode map, branch by branch, finds a header illegal that no row accepts (R94). -/
theorem decodeBody_of_noRow (h : noRow (header op a)) : decodeBody op a ws = .illegalHeader ws := by
  unfold decodeBody decodeBare
  exact byteBranch_of_noRow h (by decide) <| opBranch_of_noRow h (by decide) <| bareBranch_of_noRow h (by decide) <|
    opBranch_of_noRow h (by decide) <| opBranch_of_noRow h (by decide) <| opBranch_of_noRow h (by decide) <|
    bareBranch_of_noRow h (by decide) <| bareBranch_of_noRow h (by decide) <| bareBranch_of_noRow h (by decide) <|
    bareBranch_of_noRow h (by decide) <| bareBranch_of_noRow h (by decide) <| bareBranch_of_noRow h (by decide) <|
    opBranch_of_noRow h (by decide) <| opBranch_of_noRow h (by decide) <| bareBranch_of_noRow h (by decide) <|
    bareBranch_of_noRow h (by decide) <| byteBranch_of_noRow h (by decide) <| bareBranch_of_noRow h (by decide) <|
    opBranch_of_noRow h (by decide) rfl

end NoRow

/-- A header no row accepts is illegal and takes no words (R94). -/
theorem decodePacket_of_noRow {hd : Word} (h : noRow hd) (ws : List Word) :
    decodePacket (hd :: ws) = .illegalHeader ws := by
  rw [← header_op_a hd] at h
  exact decodeBody_of_noRow h

end Sys2Proof

namespace Sys2Proof.Machine

open Sys2Proof.Claims

/-! ## The host's turn -/

section HostTurn
variable {s : State} {ws rest : List Word} {i : Instr}

/-- An IDLE port's turn fetches the command its words decode to (R81, R246). -/
theorem fetchHost_of_instr (hidle : s.port.pending = none) (hdec : decodePacket s.port.incoming = .instr i rest) :
    fetchHost s = .run i (consumePacket rest s) := by
  simp only [fetchHost, hidle, hdec]

/-- An IDLE port's turn answers an illegal header (R94). -/
theorem fetchHost_of_illegalHeader (hidle : s.port.pending = none)
    (hdec : decodePacket s.port.incoming = .illegalHeader rest) :
    fetchHost s = .settled (raiseError .eIllegal (consumePacket rest s)) := by
  simp only [fetchHost, hidle, hdec]

/-- The host's turn runs the command its waiting words decode to, moved past them (R81, R246). -/
theorem step_of_instr (hsend : hostSends s ws) (hdec : decodePacket ws = .instr i rest) :
    step s = exec i { s with port := { s.port with incoming := rest }, env := turnTaken s.env } := by
  obtain ⟨hturn, hidle, rfl⟩ := hsend
  simp only [step, fetch, hturn, fetchHost_of_instr (s := takeTurn s) hidle hdec]
  rfl

/-- The host's turn answers an illegal header E_ILLEGAL (R94). -/
theorem step_of_illegalHeader (hsend : hostSends s ws) (hdec : decodePacket ws = .illegalHeader rest) :
    stepFails s .eIllegal rest := by
  obtain ⟨hturn, hidle, rfl⟩ := hsend
  simp only [stepFails, step, fetch, hturn, fetchHost_of_illegalHeader (s := takeTurn s) hidle hdec]
  rfl

/-- A command that is answered an error, from its packet to its answer (R236). -/
theorem stepFails_of_exec {st : Status} (hsend : hostSends s ws) (hdec : decodePacket ws = .instr i rest)
    (hexec : ∀ u : State, exec i u = .next (raiseError st u)) : stepFails s st rest :=
  (step_of_instr hsend hdec).trans (hexec _)

end HostTurn

/-! ## Operands out of range -/

theorem writeCfg_eq_none {c : Cfg} {idx : BitVec 8} {value : Word} (h : 10 ≤ idx.toNat) :
    writeCfg c idx value = none := by
  unfold writeCfg
  split
  case h_11 => rfl
  all_goals omega

/-- CFG_WR with an index from 10 on is answered E_CFGIDX (R120). -/
theorem exec_cfgWr_outOfRange {idx : BitVec 8} (h : 10 ≤ idx.toNat) (value : Word) (s : State) :
    exec (.cfgWr idx value) s = .next (raiseError .eCfgIdx s) := by
  change execCfgWr idx value s = _
  rw [execCfgWr, writeCfg_eq_none h]

theorem widthOfNat_eq_none {n : Nat} (h : n ∉ [16, 24, 32]) : widthOfNat n = none := by
  simp only [List.mem_cons, List.not_mem_nil, or_false, not_or] at h
  obtain ⟨h16, h24, h32⟩ := h
  rw [widthOfNat, if_neg h16, if_neg h24, if_neg h32]

/-- SAMPLE_TO_FLOAT with another width than 16, 24 and 32 is answered E_ARG (R212). -/
theorem exec_sampleToFloat_badWidth {w : BitVec 8} (h : w.toNat ∉ [16, 24, 32]) (x : Word) (s : State) :
    exec (.sampleToFloat w x) s = .next (raiseError .eArg s) := by
  change execSampleToFloat w x s = _
  rw [execSampleToFloat, widthOfNat_eq_none h]

end Sys2Proof.Machine

namespace Sys2Proof.Proofs

open Sys2Proof.Machine Sys2Proof.Claims

/-- Settles O9: each clause is the turn's rule (`step_of_illegalHeader`, `stepFails_of_exec`) for what its words decode
to. -/
theorem illegalHeaderAnswered : Obligations.IllegalHeaderAnswered := by
  refine ⟨fun s h ws hsend hrow => ?_, fun s idx value ws hsend hidx => ?_, fun s w x ws hsend hw => ?_,
    fun s ws hsend => ?_⟩
  · exact step_of_illegalHeader hsend (decodePacket_of_noRow hrow ws)
  · exact stepFails_of_exec hsend (decodePacket_cfgWr ws idx value) (exec_cfgWr_outOfRange hidx value)
  · exact stepFails_of_exec hsend (decodePacket_sampleToFloat ws w x) (exec_sampleToFloat_badWidth hw x)
  · exact stepFails_of_exec hsend rfl fun _ => rfl

end Sys2Proof.Proofs
end

section
/-! SUPPORT. The two single-pixel commands (R97 to R99, R141, R142). -/

namespace Sys2Proof.Machine

/-- The pixel word of three bytes is green, red, blue, then eight zero bits (R98). -/
theorem pixelWord_append (r g b : BitVec 8) : pixelWord (r ++ g ++ b) = g ++ r ++ b ++ 0#8 := by
  rw [pixelWord, aMid_append, aTop_append, aLow_append]

/-- With the driver RUNNING and room in the queue a pixel is pushed and the command answered OK (R141). -/
theorem pushPixel_of_room {s : State} (i : Instr) (rgb : BitVec 24) (hrun : s.led.state = .running)
    (hroom : s.led.txq.length < s.par.txqDepth) :
    pushPixel i rgb s = .next (respond .ok [] (pushTx (pixelWord rgb) s)) := by
  rw [pushPixel, if_neg (not_not_intro hrun), txqHasRoom, if_pos (decide_eq_true hroom)]

end Sys2Proof.Machine

namespace Sys2Proof.Proofs

open Sys2Proof.Machine Sys2Proof.Claims

/-- Settles O25: both commands are `pushPixel` of the same three bytes. -/
theorem pixelPushed : Obligations.PixelPushed := by
  refine ⟨fun r g b ws => ⟨decodePacket_setColor ws r g b, decodePacket_setRgb ws r g b⟩, ?_⟩
  intro s r g b hrun hroom
  have hpush : ∀ i, pushPixel i (r ++ g ++ b) s =
      .next (respond .ok [] (pushTx (g ++ r ++ b ++ 0#8) s)) := fun i => by
    rw [pushPixel_of_room i _ hrun hroom, pixelWord_append]
  exact ⟨hpush (.setColor (r ++ g ++ b)), hpush (.setRgb r g b)⟩

end Sys2Proof.Proofs
end

section
/-! SUPPORT. Raw words and samples, and the single stereo reads (R102 to R104, R112, R172 to R174). -/

namespace Sys2Proof.Machine

/-! ## Samples -/

/-- The sample of a raw word is the word, read as signed, over 2^(32 − W), rounded down (R103). -/
theorem sampleOf_eq_div (raw : Word) (w : SampleWidth) : sampleOf raw w = raw.toInt / 2 ^ (32 - w.bits) := by
  unfold sampleOf sext
  rw [BitVec.toInt_eq_toNat_cond, BitVec.toInt_eq_toNat_cond, BitVec.toNat_setWidth, BitVec.toNat_ushiftRight,
    Nat.shiftRight_eq_div_pow]
  have hlt := raw.isLt
  cases w <;> simp only [SampleWidth.bits] <;> omega

/-- A read answers the sample itself: it fits the data word (R104). -/
theorem convertRaw_toInt (raw : Word) (w : SampleWidth) :
    (convertRaw raw w).toInt = raw.toInt / 2 ^ (32 - w.bits) := by
  have hle := raw.le_toInt
  have hlt := raw.toInt_lt
  have hfits : -(2 ^ 31) ≤ raw.toInt / 2 ^ (32 - w.bits) ∧ raw.toInt / 2 ^ (32 - w.bits) < 2 ^ 31 := by
    cases w <;> simp only [SampleWidth.bits] <;> omega
  rw [← sampleOf_eq_div] at hfits ⊢
  obtain ⟨hlow, hhigh⟩ := hfits
  exact BitVec.toInt_ofInt_eq_self (by decide) hlow hhigh

/-- The raw word of a sample holds its W bits left-aligned (R112). -/
theorem encodeSample_toNat (v : Int) (w : SampleWidth) :
    ((encodeSample v w).toNat : Int) = v % 2 ^ w.bits * 2 ^ (32 - w.bits) := by
  rw [encodeSample, BitVec.toNat_shiftLeft, BitVec.toNat_setWidth, BitVec.toNat_ofInt, Nat.shiftLeft_eq]
  cases w <;> simp only [SampleWidth.bits] <;> omega

/-- The raw word of a sample decodes to it (R112). -/
theorem sampleOf_encodeSample {v : Int} {w : SampleWidth} (hle : -(2 ^ (w.bits - 1)) ≤ v)
    (hlt : v ≤ 2 ^ (w.bits - 1) - 1) : sampleOf (encodeSample v w) w = v := by
  have hraw := encodeSample_toNat v w
  rw [sampleOf_eq_div, BitVec.toInt_eq_toNat_cond]
  cases w <;> simp only [SampleWidth.bits] at hle hlt hraw ⊢ <;> omega

/-! ## The single reads -/

section Reads
variable {s t : State} {l r : Word}

/-- READ_STEREO with a frame queued (R172). -/
theorem exec_readStereo_of_frame (hrun : s.aud.state = .running) (hframe : readFrame s = some (l, r, t)) :
    exec .readStereo s = .next (respond .ok [l, r] t) := by
  change execReadStereo s = _
  rw [execReadStereo, if_neg (not_not_intro hrun), hframe]

/-- READ_STEREO_NB with a frame queued (R173). -/
theorem exec_readStereoNb_of_frame (hrun : s.aud.state = .running) (hframe : readFrame s = some (l, r, t)) :
    exec .readStereoNb s = .next (respond .ok [l, r] t) := by
  change execReadStereoNb s = _
  rw [execReadStereoNb, if_neg (not_not_intro hrun), hframe]

/-- READ_MONO with a frame queued drops the right sample (R174). -/
theorem exec_readMono_of_frame (hrun : s.aud.state = .running) (hframe : readFrame s = some (l, r, t)) :
    exec .readMono s = .next (respond .ok [l] t) := by
  change execReadMono s = _
  rw [execReadMono, if_neg (not_not_intro hrun), hframe]

end Reads

end Sys2Proof.Machine

namespace Sys2Proof.Proofs

open Sys2Proof.Machine

/-- Settles O32: each read answers the samples of the frame `readFrame` pops, as `convertRaw_toInt` gives them. -/
theorem stereoReadsPopOneFrame : Obligations.StereoReadsPopOneFrame := by
  intro s rawL rawR rest hrun hq
  have hframe : readFrame s =
      some (convertRaw rawL s.aud.w, convertRaw rawR s.aud.w, { s with aud := { s.aud with rxq := rest } }) :=
    readFrame_eq_some.mpr ⟨rawL, rawR, rest, hq, rfl, rfl, rfl⟩
  exact ⟨_, _, convertRaw_toInt rawL s.aud.w, convertRaw_toInt rawR s.aud.w, exec_readStereo_of_frame hrun hframe,
    exec_readStereoNb_of_frame hrun hframe, exec_readMono_of_frame hrun hframe⟩

/-- Settles O36. -/
theorem sampleRoundTrip : Obligations.SampleRoundTrip := fun w v hle hlt =>
  ⟨encodeSample_toNat v w, sampleOf_encodeSample hle hlt⟩

end Sys2Proof.Proofs
end

section
/-! SUPPORT. The waveforms of one audio frame, whatever the DATA line brings (R105, R188 to R201): the channel bit by bit,
each bit one tick with BCLK low and one with BCLK high, first through a phase and then through the two phases of a frame. -/

namespace Sys2Proof.Machine

/-- The RUNNING audio channel of width `w` once `n` bits of a phase are taken, with `queued` words in the queue. The
loop counter, W − 2 less a bit taken, is at zero for the last bit (R26, R188 to R200). -/
structure AtPhaseBit (w : SampleWidth) (queued : Nat) (right : Bool) (n : Nat) (a : AudioState) : Prop where
  running : a.state = .running
  program : a.prog = audioProgram a.w
  width : a.w = w
  queue : a.rxq.length = queued
  index : a.pc = phaseStart right + if n + 1 = w.bits then 2 else 0
  taken : a.isrCnt = n
  counter : a.cnt = w.bits - 2 - n
  emptied : n = 0 → a.isr = 0#32

/-- WS while bit `n` of a phase is taken: that of the phase, and of the other phase with the last bit (R105). -/
def phaseWs (w : SampleWidth) (right : Bool) (n : Nat) : Bool := right ^^ decide (n + 1 = w.bits)

theorem phaseWs_within {w : SampleWidth} {n : Nat} (right : Bool) (h : n + 1 < w.bits) : phaseWs w right n = right := by
  rw [phaseWs, decide_eq_false h.ne, Bool.xor_false]

theorem phaseWs_last {w : SampleWidth} {n : Nat} (right : Bool) (h : n + 1 = w.bits) : phaseWs w right n = !right := by
  rw [phaseWs, decide_eq_true h, Bool.xor_true]

section Bit
variable {s : State} {w : SampleWidth} {queued n : Nat} {right : Bool}

/-- A bit short of the last is taken at step 0 of the phase. -/
theorem AtPhaseBit.atSmp (h : AtPhaseBit w queued right n s.aud) (hn : n + 1 < w.bits) :
    AtPhaseStep s.aud right 0 :=
  ⟨h.running, h.program, by rw [h.index, if_neg hn.ne]⟩

/-- The last bit is taken at step 2 of the phase. -/
theorem AtPhaseBit.atLastSmp (h : AtPhaseBit w queued right n s.aud) (hn : n + 1 = w.bits) :
    AtPhaseStep s.aud right 2 :=
  ⟨h.running, h.program, by rw [h.index, if_pos hn]⟩

/-- The first tick of a bit samples DATA with BCLK low (R190, R192, R194, R196). -/
theorem tick_bit_low (h : AtPhaseBit w queued right n s.aud) (hn : n < w.bits) (hroom : queued < 8) :
    ∃ a, tick .audio s = .next (audLater s a 1 1) ∧ a.bclk = some false ∧ a.ws = some (phaseWs w right n) := by
  obtain hn | hn := Nat.lt_or_eq_of_le (Nat.succ_le_of_lt hn)
  · refine ⟨_, tick_smp (h.atSmp hn) (by rw [h.taken, h.width]; exact hn), rfl, ?_⟩
    rw [phaseWs_within right hn]
  · refine ⟨_, tick_lastSmp (h.atLastSmp hn) (by rw [h.taken, h.width]; exact hn) (by rw [h.queue]; exact hroom.ne),
      rfl, ?_⟩
    rw [phaseWs_last right hn]

/-- A bit short of the last takes two ticks and leaves the channel at the next bit of the phase (R190, R191). -/
theorem ticks_bit_within (h : AtPhaseBit w queued right n s.aud) (hn : n + 1 < w.bits) :
    ∃ a, ticks .audio 2 s = some (audLater s a 1 2) ∧ a.bclk = some true ∧ a.ws = some right ∧
      AtPhaseBit w queued right (n + 1) a := by
  have hcnt : s.aud.isrCnt + 1 < s.aud.w.bits := by rw [h.taken, h.width]; exact hn
  have hloop := h.counter
  by_cases hlast : n + 2 = w.bits
  · exact ⟨_, ticks_bit_out (h.atSmp hn) hcnt (by omega), rfl, rfl,
      { running := h.running, program := h.program, width := h.width, queue := h.queue
        index := by rw [if_pos hlast]
        taken := congrArg (· + 1) h.taken
        counter := by simp only; omega
        emptied := fun h0 => absurd h0 n.succ_ne_zero }⟩
  · exact ⟨_, ticks_bit_back (h.atSmp hn) hcnt (by omega), rfl, rfl,
      { running := h.running, program := h.program, width := h.width, queue := h.queue
        index := by rw [if_neg hlast]; rfl
        taken := congrArg (· + 1) h.taken
        counter := by simp only; omega
        emptied := fun h0 => absurd h0 n.succ_ne_zero }⟩

/-- The last bit takes two ticks, pushes the word and leaves the channel at the other phase (R192, R193). -/
theorem ticks_bit_last (h : AtPhaseBit w queued right n s.aud) (hn : n + 1 = w.bits) (hroom : queued < 8) :
    ∃ a, ticks .audio 2 s = some (audLater s a 1 2) ∧ a.bclk = some true ∧ a.ws = some (!right) ∧
      AtPhaseBit w (queued + 1) (!right) 0 a := by
  have hwidth := two_le_bits w
  exact ⟨_, ticks_lastBit (h.atLastSmp hn) (by rw [h.taken, h.width]; exact hn) (by rw [h.queue]; exact hroom.ne),
    rfl, rfl,
    { running := h.running, program := h.program, width := h.width
      queue := by simp only [List.length_append, List.length_singleton, h.queue]
      index := by rw [if_neg (by omega)]; rfl
      taken := rfl
      counter := by simp only [h.width, Nat.sub_zero]
      emptied := fun _ => rfl }⟩

/-- The second tick of a bit has BCLK high and the same WS (R105). -/
theorem ticks_bit_high (h : AtPhaseBit w queued right n s.aud) (hn : n < w.bits) (hroom : queued < 8) :
    ∃ a, ticks .audio 2 s = some (audLater s a 1 2) ∧ a.bclk = some true ∧ a.ws = some (phaseWs w right n) := by
  obtain hn | hn := Nat.lt_or_eq_of_le (Nat.succ_le_of_lt hn)
  · obtain ⟨a, hticks, hbclk, hws, -⟩ := ticks_bit_within h hn
    exact ⟨a, hticks, hbclk, by rw [hws, phaseWs_within right hn]⟩
  · obtain ⟨a, hticks, hbclk, hws, -⟩ := ticks_bit_last h hn hroom
    exact ⟨a, hticks, hbclk, by rw [hws, phaseWs_last right hn]⟩

end Bit

section Phase
variable {s : State} {w : SampleWidth} {queued n : Nat} {right : Bool}

/-- Two ticks for each bit of a phase short of the last. -/
theorem ticks_phaseBits (h : AtPhaseBit w queued right 0 s.aud) (hn : n < w.bits) :
    ∃ a, ticks .audio (2 * n) s = some (audLater s a n (2 * n)) ∧ AtPhaseBit w queued right n a := by
  induction n with
  | zero => exact ⟨s.aud, rfl, h⟩
  | succ n ih =>
    obtain ⟨a, hticks, hat⟩ := ih (Nat.lt_of_succ_lt hn)
    obtain ⟨b, hbit, -, -, hnext⟩ := ticks_bit_within (s := audLater s a n (2 * n)) hat hn
    refine ⟨b, ?_, hnext⟩
    rw [Nat.mul_succ, ticks_add hticks, hbit, audLater_audLater]

/-- A phase with room in the queue takes 2W ticks and W bits, pushes a word and leads to the other phase (R200). -/
theorem ticks_wholePhase (h : AtPhaseBit w queued right 0 s.aud) (hroom : queued < 8) :
    ∃ a, ticks .audio (2 * w.bits) s = some (audLater s a w.bits (2 * w.bits)) ∧
      AtPhaseBit w (queued + 1) (!right) 0 a := by
  have hwidth : w.bits - 1 + 1 = w.bits := Nat.sub_add_cancel (Nat.le_of_succ_le (two_le_bits w))
  obtain ⟨a, hticks, hat⟩ := ticks_phaseBits h (n := w.bits - 1) (by omega)
  obtain ⟨b, hbit, -, -, hnext⟩ :=
    ticks_bit_last (s := audLater s a (w.bits - 1) (2 * (w.bits - 1))) hat hwidth hroom
  refine ⟨b, ?_, hnext⟩
  rw [← hwidth, Nat.mul_succ, ticks_add hticks, hbit, audLater_audLater]

/-- BCLK, WS and the bits drawn at tick `k` of a phase (R201). -/
theorem ticks_phaseTick {k : Nat} (h : AtPhaseBit w queued right 0 s.aud) (hk : k < 2 * w.bits) (hroom : queued < 8) :
    ∃ a, ticks .audio (k + 1) s = some (audLater s a (k / 2 + 1) (k + 1)) ∧ a.bclk = some (decide (k % 2 = 1)) ∧
      a.ws = some (phaseWs w right (k / 2)) := by
  obtain ⟨n, rfl | rfl⟩ := Nat.even_or_odd' k
  · obtain ⟨a, hticks, hat⟩ := ticks_phaseBits h (n := n) (by omega)
    obtain ⟨b, htick, hbclk, hws⟩ := tick_bit_low (s := audLater s a n (2 * n)) hat (by omega) hroom
    rw [Nat.mul_div_cancel_left n two_pos, Nat.mul_mod_right]
    refine ⟨b, ?_, hbclk, hws⟩
    rw [ticks_add hticks, ticks_succ htick, audLater_audLater]
    rfl
  · obtain ⟨a, hticks, hat⟩ := ticks_phaseBits h (n := n) (by omega)
    obtain ⟨b, hbit, hbclk, hws⟩ := ticks_bit_high (s := audLater s a n (2 * n)) hat (by omega) hroom
    rw [Nat.mul_add_div two_pos, Nat.mul_add_mod]
    refine ⟨b, ?_, hbclk, hws⟩
    rw [Nat.add_assoc, ticks_add hticks, hbit, audLater_audLater]
    rfl

end Phase

/-! ## One frame -/

section Frame
variable {s : State} {w : SampleWidth} {queued k : Nat}

/-- WS at tick `k` of a frame: high from tick 2(W − 1) to tick 4W − 3 (R201). -/
def frameWs (w : SampleWidth) (k : Nat) : Bool := decide (2 * (w.bits - 1) ≤ k ∧ k < 4 * w.bits - 2)

theorem phaseWs_left (h : k < 2 * w.bits) : phaseWs w false (k / 2) = frameWs w k := by
  have hwidth := two_le_bits w
  rw [phaseWs, Bool.false_xor, frameWs, decide_eq_decide]
  omega

theorem phaseWs_right (h : k < 2 * w.bits) : phaseWs w true (k / 2) = frameWs w (2 * w.bits + k) := by
  rw [phaseWs, Bool.true_xor, frameWs, ← decide_not, decide_eq_decide]
  omega

/-- BCLK, WS and the bits drawn at tick `k` of a frame with room for its two words (R201). -/
theorem ticks_frameTick (h : AtPhaseBit w queued false 0 s.aud) (hk : k < 4 * w.bits) (hroom : queued + 2 ≤ 8) :
    ∃ a, ticks .audio (k + 1) s = some (audLater s a (k / 2 + 1) (k + 1)) ∧ a.bclk = some (decide (k % 2 = 1)) ∧
      a.ws = some (frameWs w k) := by
  obtain hk' | hk' := Nat.lt_or_ge k (2 * w.bits)
  · rw [← phaseWs_left hk']
    exact ticks_phaseTick h hk' (by omega)
  · obtain ⟨j, rfl⟩ := Nat.exists_eq_add_of_le hk'
    obtain ⟨a, hleft, hat⟩ := ticks_wholePhase h (by omega)
    obtain ⟨b, hright, hbclk, hws⟩ :=
      ticks_phaseTick (s := audLater s a w.bits (2 * w.bits)) hat (k := j) (by omega) (by omega)
    rw [← phaseWs_right (by omega), Nat.mul_add_div two_pos, Nat.mul_add_mod]
    refine ⟨b, ?_, hbclk, hws⟩
    rw [Nat.add_assoc, ticks_add hleft, hright, audLater_audLater]
    rfl

/-- A frame with room for its two words takes 4W ticks and leads to the next one (R200). -/
theorem ticks_wholeFrame (h : AtPhaseBit w queued false 0 s.aud) (hroom : queued + 2 ≤ 8) :
    ∃ a, ticks .audio (4 * w.bits) s = some (audLater s a (2 * w.bits) (4 * w.bits)) ∧
      AtPhaseBit w (queued + 2) false 0 a := by
  obtain ⟨a, hleft, hat⟩ := ticks_wholePhase h (by omega)
  obtain ⟨b, hright, hnext⟩ := ticks_wholePhase (s := audLater s a w.bits (2 * w.bits)) hat (by omega)
  refine ⟨b, ?_, hnext⟩
  rw [show 4 * w.bits = 2 * w.bits + 2 * w.bits by omega, ticks_add hleft, hright, audLater_audLater,
    Nat.two_mul w.bits]

end Frame

end Sys2Proof.Machine

namespace Sys2Proof.Proofs

open Sys2Proof.Machine

/-- Settles O51: tick by tick `ticks_frameTick`, and `ticks_wholeFrame` for where the frame ends. -/
theorem frameWaveform : Obligations.FrameWaveform := by
  intro s hrun hprog hpc hcnt hisr hisrCnt hroom
  have hwidth := two_le_bits s.aud.w
  have hstart : AtPhaseBit s.aud.w s.aud.rxq.length false 0 s.aud :=
    ⟨hrun, hprog, rfl, rfl, by rw [hpc, if_neg (by omega)]; rfl, hisrCnt, hcnt, fun _ => hisr⟩
  constructor
  · intro k hk
    obtain ⟨a, hticks, hbclk, hws⟩ := ticks_frameTick hstart hk hroom
    exact ⟨_, hticks, hbclk, hws, rfl⟩
  · obtain ⟨a, hticks, hnext⟩ := ticks_wholeFrame hstart hroom
    refine ⟨_, hticks, ?_, hnext.counter, hnext.emptied rfl, hnext.taken, hnext.queue⟩
    exact hnext.index.trans (by rw [if_neg (by omega)]; rfl)

end Sys2Proof.Proofs
end

section
/-! SUPPORT. What one host step of a command does to the port: it answers, once, or keeps the command pending; and the
words of a response (R15, R38, R93, R95, R96). -/

namespace Sys2Proof.Machine

open Sys2Proof.Claims

/-! ## The words of a response -/

theorem statusWord_high (code : BitVec 8) : (0#24 ++ code : Word).extractLsb' 8 24 = 0#24 :=
  (extract_append_high 0#24 code (Nat.le_refl 8)).trans (extract_all _)

theorem statusWord_low (code : BitVec 8) : (0#24 ++ code : Word).extractLsb' 0 8 = code :=
  (extract_append_low 0#24 code (Nat.le_refl 8)).trans (extract_all code)

/-- Every status stands in the table of R96 with its code. -/
theorem Status.mem_statusTable (st : Status) : (st, st.code.toNat) ∈ statusTable := by
  cases st <;> decide

/-- The words of a response are as R95 and R96 give them. -/
theorem responseFormat_holds : responseFormat := by
  constructor
  · intro r
    refine ⟨_, rfl, statusWord_high _, ?_⟩
    rw [statusWord_low]
    exact r.status.mem_statusTable
  · intro r r' h
    have hword : (0#24 ++ r.status.code : Word) = 0#24 ++ r'.status.code := Option.some.inj h
    exact Status.code_inj ((BitVec.append_right_inj _).mp hword)

/-! ## One host step of a command -/

/-- What a host step of the command `i` makes of the port `p`: an answer OK with data words as `ok` says, another answer
without data words, or `i` pending (R15, R38, R95). -/
inductive PortStep (i : Instr) (ok : List Word → Prop) (p : Port) : Port → Prop where
  | answersOk {data : List Word} (h : ok data) : PortStep i ok p (answered p .ok data)
  | fails {st : Status} (h : st ≠ .ok) : PortStep i ok p (answered p st [])
  | pends (idx : Nat) (emitted : List Word) :
    PortStep i ok p { p with pending := some i, idx := idx, emitted := emitted }

section PortStep
variable {i : Instr} {ok : List Word → Prop} {p p' : Port}

/-- Such a step adds one response, with data words only if it is OK, to an IDLE port, or adds none and leaves `i`
pending. -/
theorem PortStep.answers_or_pends (h : PortStep i ok p p') :
    (∃ r : Response, (r.status ≠ .ok → r.data = []) ∧
      p' = { p with pending := none, idx := 0, emitted := [], responses := p.responses ++ [r] }) ∨
    (p'.pending = some i ∧ p'.responses = p.responses ∧ p'.incoming = p.incoming) := by
  cases h with
  | answersOk => exact .inl ⟨_, fun h => absurd rfl h, rfl⟩
  | fails => exact .inl ⟨_, fun _ => rfl, rfl⟩
  | pends => exact .inr ⟨rfl, rfl, rfl⟩

/-- The data words of an OK answer of such a step are as `ok` says. -/
theorem PortStep.ok_of_responses {data : List Word} (h : PortStep i ok p p')
    (hresp : p'.responses = p.responses ++ [⟨.ok, data⟩]) : ok data := by
  cases h with
  | answersOk hok =>
    cases List.append_cancel_left hresp
    exact hok
  | fails hst =>
    cases List.append_cancel_left hresp
    exact absurd rfl hst
  | pends => exact absurd (List.self_eq_append_right.mp hresp) (List.cons_ne_nil _ _)

end PortStep

/-- The outcome is a next state whose port is as `PortStep` says. -/
def AnswersOrPends (i : Instr) (ok : List Word → Prop) (p : Port) (r : Result) : Prop :=
  ∃ t, r = .next t ∧ PortStep i ok p t.port

section Outcomes
variable {i : Instr} {ok : List Word → Prop} {p : Port} {s : State}

theorem AnswersOrPends.of_respond_ok {data : List Word} (hok : ok data) (hp : s.port = p) :
    AnswersOrPends i ok p (.next (respond .ok data s)) :=
  ⟨_, rfl, hp ▸ .answersOk hok⟩

theorem AnswersOrPends.of_respond_noData (hp : s.port = p) : AnswersOrPends i ok p (.next (respond .noData [] s)) :=
  ⟨_, rfl, hp ▸ .fails (by decide)⟩

theorem AnswersOrPends.of_raiseError {st : Status} (hst : st ≠ .ok) (hp : s.port = p) :
    AnswersOrPends i ok p (.next (raiseError st s)) :=
  ⟨_, rfl, hp ▸ .fails hst⟩

theorem AnswersOrPends.of_hold (hp : s.port = p) : AnswersOrPends i ok p (.next (hold i s)) :=
  ⟨_, rfl, hp ▸ .pends _ _⟩

theorem AnswersOrPends.of_progress (k : Nat) (words : List Word) (hp : s.port = p) :
    AnswersOrPends i ok p (.next (progress i k words s)) :=
  ⟨_, rfl, hp ▸ .pends _ _⟩

end Outcomes

/-- No check of LED_INIT fails with OK (R140). -/
theorem ledInitCheck_error {s : State} {st : Status} (h : ledInitCheck s = .error st) : st ≠ .ok := by
  rintro rfl
  unfold ledInitCheck at h
  split at h; · cases h
  split at h; · cases h
  split at h; · cases h
  split at h; · cases h
  split at h <;> cases h

/-- No check of AUD_INIT fails with OK (R170). -/
theorem audInitCheck_error {s : State} {st : Status} (h : audInitCheck s = .error st) : st ≠ .ok := by
  rintro rfl
  unfold audInitCheck at h
  split at h; · cases h
  split at h; · cases h
  split at h; · cases h
  split at h; · cases h
  split at h; · cases h
  split at h; · cases h
  split at h; · cases h
  split at h <;> cases h

theorem readFrame_port {s t : State} {l r : Word} (h : readFrame s = some (l, r, t)) : t.port = s.port := by
  obtain ⟨_, _, _, -, -, -, rfl⟩ := readFrame_eq_some.mp h
  rfl

/-- The port's index and words, of a buffer read of `n` frames that has not read more than it should (R38, R175). -/
def ReadCounted (n : BitVec 24) (p : Port) : Prop := p.idx ≤ n.toNat ∧ p.emitted.length = 2 * p.idx

section Commands
variable {i : Instr} {ok : List Word → Prop} {s : State}

/-- A driver's command is answered E_NOTINIT, or does what it does on a RUNNING driver (R231). -/
theorem AnswersOrPends.of_running {state : Lifecycle} {r : Result} (h : AnswersOrPends i ok s.port r) :
    AnswersOrPends i ok s.port (if state ≠ .running then .next (raiseError .eNotInit s) else r) := by
  split
  · exact .of_raiseError (by decide) rfl
  · exact h

theorem execCfgWr_answers (idx : BitVec 8) (value : Word) (hok : ok []) :
    AnswersOrPends i ok s.port (execCfgWr idx value s) := by
  unfold execCfgWr
  split
  · exact .of_respond_ok hok rfl
  · exact .of_raiseError (by decide) rfl

theorem execDivCalc_answers (cycles : BitVec 24) (sysClk symFreq : Word) (hok : ∀ d, ok [d]) :
    AnswersOrPends i ok s.port (execDivCalc cycles sysClk symFreq s) := by
  unfold execDivCalc
  split
  · exact .of_respond_ok (hok _) rfl
  · exact .of_respond_ok (hok _) rfl

theorem execLedInit_answers (hok : ok []) : AnswersOrPends i ok s.port (execLedInit s) := by
  unfold execLedInit
  split
  next hcheck => exact .of_raiseError (ledInitCheck_error hcheck) rfl
  next => exact .of_respond_ok hok rfl

theorem execAudInit_answers (hok : ok []) : AnswersOrPends i ok s.port (execAudInit s) := by
  unfold execAudInit
  split
  next hcheck => exact .of_raiseError (audInitCheck_error hcheck) rfl
  next => exact .of_respond_ok hok rfl

/-- SET_COLOR and SET_RGB. -/
theorem pushPixel_answers (rgb : BitVec 24) (hok : ok []) : AnswersOrPends i ok s.port (pushPixel i rgb s) := by
  refine .of_running ?_
  split
  · exact .of_respond_ok hok rfl
  · exact .of_hold rfl

/-- FILL and CLEAR. -/
theorem fillLine_answers (word : Word) (hok : ok []) : AnswersOrPends i ok s.port (fillLine i word s) := by
  refine .of_running ?_
  split
  · exact .of_respond_ok hok rfl
  · split
    · split
      · exact .of_respond_ok hok rfl
      · exact .of_progress _ _ rfl
    · exact .of_hold rfl

theorem execIsReadable_answers (hok : ∀ d, ok [d]) : AnswersOrPends i ok s.port (execIsReadable s) :=
  .of_running (.of_respond_ok (hok _) rfl)

theorem execGetFifoLevel_answers (hok : ∀ d, ok [d]) : AnswersOrPends i ok s.port (execGetFifoLevel s) :=
  .of_running (.of_respond_ok (hok _) rfl)

theorem execReadStereo_answers (hok : ∀ l r, ok [l, r]) : AnswersOrPends .readStereo ok s.port (execReadStereo s) := by
  refine .of_running ?_
  split
  next hframe => exact .of_respond_ok (hok _ _) (readFrame_port hframe)
  next => exact .of_hold rfl

theorem execReadStereoNb_answers (hok : ∀ l r, ok [l, r]) : AnswersOrPends i ok s.port (execReadStereoNb s) := by
  refine .of_running ?_
  split
  next hframe => exact .of_respond_ok (hok _ _) (readFrame_port hframe)
  next => exact .of_respond_noData rfl

theorem execReadMono_answers (hok : ∀ d, ok [d]) : AnswersOrPends .readMono ok s.port (execReadMono s) := by
  refine .of_running ?_
  split
  next hframe => exact .of_respond_ok (hok _) (readFrame_port hframe)
  next => exact .of_hold rfl

/-- READ_SAMPLES answers 2N words, if what it had emitted before fits its index (R175). -/
theorem execReadSamples_answers (n : BitVec 24)
    (hok : ∀ data, (ReadCounted n s.port → data.length = 2 * n.toNat) → ok data) :
    AnswersOrPends (.readSamples n) ok s.port (execReadSamples n s) := by
  refine .of_running ?_
  split
  next hdone =>
    refine .of_respond_ok (hok _ ?_) rfl
    rintro ⟨hidx, hlen⟩
    omega
  next =>
    split
    next hframe =>
      split
      next hlast =>
        refine .of_respond_ok (hok _ ?_) (readFrame_port hframe)
        rintro ⟨-, hlen⟩
        rw [List.length_append, hlen, List.length_cons, List.length_singleton]
        omega
      next => exact .of_progress _ _ (readFrame_port hframe)
    next => exact .of_hold rfl

/-- READ_SAMPLES_AVAIL answers its count and as many frames, if what it had emitted before fits its index (R176). -/
theorem execReadSamplesAvail_answers (n : BitVec 24)
    (hok : ∀ count words, (ReadCounted n s.port → count ≤ n.toNat ∧ words.length = 2 * count) →
      ok (countWord count :: words)) :
    AnswersOrPends (.readSamplesAvail n) ok s.port (execReadSamplesAvail n s) := by
  refine .of_running ?_
  split
  · exact .of_respond_ok (hok _ _ id) rfl
  · split
    next hframe =>
      split
      next hlast =>
        refine .of_respond_ok (hok _ _ ?_) (readFrame_port hframe)
        rintro ⟨-, hlen⟩
        rw [List.length_append, hlen, List.length_cons, List.length_singleton]
        omega
      next => exact .of_progress _ _ (readFrame_port hframe)
    next => exact .of_respond_ok (hok _ _ id) rfl

theorem execSampleToFloat_answers (w : BitVec 8) (x : Word) (hok : ∀ d, ok [d]) :
    AnswersOrPends i ok s.port (execSampleToFloat w x s) := by
  unfold execSampleToFloat
  split
  · exact .of_raiseError (by decide) rfl
  · exact .of_respond_ok (hok _) rfl

theorem execGetRms_answers (samples : List (Word × Word)) (hok : ∀ l r, ok [l, r]) :
    AnswersOrPends i ok s.port (execGetRms samples s) := by
  unfold execGetRms
  split
  · exact .of_raiseError (by decide) rfl
  · exact .of_respond_ok (hok _ _) rfl

end Commands

/-- The data words of an OK answer of `i` given from the port `p`, a buffer read's if its port was in order (R93). -/
def OkAnswer (i : Instr) (p : Port) (data : List Word) : Prop :=
  (∀ n, i = .readSamples n ∨ i = .readSamplesAvail n → ReadCounted n p) → okData i data

/-- One host step of a command answers, once, or keeps it pending (R15, R38, R95). -/
theorem exec_answersOrPends {i : Instr} (hi : i.isCommand = true) (s : State) :
    AnswersOrPends i (OkAnswer i s.port) s.port (exec i s) := by
  cases i with
  | cfgWr idx value => exact execCfgWr_answers idx value fun _ => rfl
  | divCalc cycles sysClk symFreq => exact execDivCalc_answers cycles sysClk symFreq fun _ _ => rfl
  | ledInit => exact execLedInit_answers fun _ => rfl
  | setColor rgb => exact pushPixel_answers rgb fun _ => rfl
  | setRgb r g b => exact pushPixel_answers (rgbOf r g b) fun _ => rfl
  | fill rgb => exact fillLine_answers (pixelWord rgb) fun _ => rfl
  | clear => exact fillLine_answers 0#32 fun _ => rfl
  | audInit => exact execAudInit_answers fun _ => rfl
  | isReadable => exact execIsReadable_answers fun _ _ => rfl
  | readStereo => exact execReadStereo_answers fun _ _ _ => rfl
  | readStereoNb => exact execReadStereoNb_answers fun _ _ _ => rfl
  | readMono => exact execReadMono_answers fun _ _ => rfl
  | readSamples n => exact execReadSamples_answers n fun _ h hcounted => h (hcounted n (.inl rfl))
  | readSamplesAvail n =>
    refine execReadSamplesAvail_answers n fun count words h hcounted => ?_
    obtain ⟨hcount, hlen⟩ := h (hcounted n (.inr rfl))
    exact ⟨count, hcount, rfl, by rw [List.length_cons, hlen, Nat.add_comm]⟩
  | getFifoLevel => exact execGetFifoLevel_answers fun _ _ => rfl
  | sampleToMono left right => exact .of_respond_ok (fun _ => rfl) rfl
  | sampleToFloat w x => exact execSampleToFloat_answers w x fun _ _ => rfl
  | getPeak left right => exact .of_respond_ok (fun _ => rfl) rfl
  | getRms samples => exact execGetRms_answers samples fun _ _ _ => rfl
  | _ => cases hi

/-! ## Micro-operations leave the port alone -/

/-- SAMPLE does not touch the port (R198). -/
theorem sample_port {s t : State} (h : sample s = some t) : t.port = s.port := by
  obtain ⟨-, rfl⟩ | ⟨-, rfl⟩ := sample_eq_some h <;> rfl

/-- SHIFT_OUT does not touch the port (R151). -/
theorem shiftOut_port {s t : State} (h : shiftOut s = some t) : t.port = s.port := by
  obtain ⟨-, rfl⟩ | ⟨-, _, _, -, rfl⟩ := shiftOut_eq_some h <;> rfl

/-- A micro-operation leaves the port as it is (R16). -/
theorem exec_port_of_micro {i : Instr} {s t : State} (hi : i.isCommand = false) (h : exec i s = .next t) :
    t.port = s.port := by
  cases i with
  | seqNop side delay operand => cases h; rfl
  | seqJump side delay target => cases h; rfl
  | seqBrz side delay target => cases h; rfl
  | seqSetCnt side delay value => cases h; rfl
  | seqShiftOut side delay count =>
    change execSeqShiftOut side delay s = _ at h
    unfold execSeqShiftOut at h
    split at h
    next hshift =>
      cases h
      exact (shiftOut_port hshift :)
    next => cases h; rfl
  | seqSample side delay count =>
    change execSeqSample side s = _ at h
    unfold execSeqSample at h
    split at h
    next hsample =>
      cases h
      exact (sample_port hsample :)
    next => cases h; rfl
  | seqLoop side delay target =>
    change execSeqLoop side target s = _ at h
    unfold execSeqLoop at h
    split at h
    · cases h; rfl
    · cases h; rfl
  | _ => cases hi

/-! ## The port of a pending buffer read -/

/-- A buffer read that starts at an IDLE port, or goes on, has not read more than it should (R38, R175, R176). -/
theorem PortInv.readCounted {s : State} {i : Instr} (hinv : PortInv s)
    (hpend : s.port.pending = none ∨ s.port.pending = some i) {n : BitVec 24}
    (hi : i = .readSamples n ∨ i = .readSamplesAvail n) : ReadCounted n s.port := by
  obtain hnone | hsome := hpend
  · obtain ⟨hidx, hemitted⟩ := hinv.idle hnone
    rw [ReadCounted, hidx, hemitted]
    exact ⟨Nat.zero_le _, rfl⟩
  · have hok := hinv.pending i hsome
    obtain rfl | rfl := hi
    · obtain ⟨-, hlt, hlen⟩ := hok
      exact ⟨hlt.le, hlen⟩
    · obtain ⟨-, hlt, hlen⟩ := hok
      exact ⟨hlt.le, hlen⟩

end Sys2Proof.Machine

namespace Sys2Proof.Proofs

open Sys2Proof.Machine Sys2Proof.Claims

/-- Settles O16: what a command does to the port is `exec_answersOrPends`; a micro-operation never touches it. -/
theorem commandAnswersOnceOrStaysPending : Obligations.CommandAnswersOnceOrStaysPending := by
  refine ⟨fun i s t hi hexec => ?_, fun i s t data hinv hpend hexec hresp => ?_, responseFormat_holds⟩
  · obtain ⟨t', hexec', hstep⟩ := exec_answersOrPends hi s
    cases hexec.symm.trans hexec'
    exact hstep.answers_or_pends
  · cases hi : i.isCommand with
    | true =>
      obtain ⟨t', hexec', hstep⟩ := exec_answersOrPends hi s
      cases hexec.symm.trans hexec'
      exact hstep.ok_of_responses hresp fun n => hinv.readCounted hpend
    | false =>
      rw [exec_port_of_micro hi hexec] at hresp
      exact absurd (List.self_eq_append_right.mp hresp) (List.cons_ne_nil _ _)

end Sys2Proof.Proofs
end

section
/-! SUPPORT. The configuration write: its headers, and what the register file reads after it (R61, R120). -/

namespace Sys2Proof

open Sys2Proof.Claims

/-- CFG_WR's header carries the index in `a[7:0]` and nothing in `a[23:8]` (R93, R94). -/
theorem byteHeader_cfgWr : byteHeader 0x01#8 .cfgWr := by
  refine fun ws => ⟨fun idx value => decodePacket_cfgWr ws idx value, fun a (ha : aHigh a ≠ 0#16) => ?_⟩
  change decodePacket (header 0x01#8 a :: ws) = _
  rw [decodePacket_cons, headerOp_header, headerA_header, decodeBody, if_pos rfl, if_neg ha]

end Sys2Proof

namespace Sys2Proof.Machine

/-! ## The register file as a list -/

/-- The ten configuration registers, the one of each index at its place (R61). -/
def cfgRegisters (c : Cfg) : List Word :=
  [c.sysClkHz, c.ledPin, c.ledCount, c.audClkPin, c.audWsPin, c.audDataPin, c.audRateHz, c.audBits, c.ledDivOvr,
    c.audDivOvr]

/-- A register is read at its place in the list; past the list there is none (R61). -/
theorem readCfg_eq_getElem? (c : Cfg) (j : BitVec 8) : readCfg c j = (cfgRegisters c)[j.toNat]? := by
  unfold readCfg
  generalize j.toNat = n
  obtain hn | hn := Nat.lt_or_ge n 10
  · interval_cases n
    all_goals rfl
  · obtain ⟨k, rfl⟩ := Nat.exists_eq_add_of_le' hn
    rfl

/-- A write at an index up to 9 succeeds, and sets that place of the list alone (R61, R120). -/
theorem exists_writeCfg_eq_some {idx : BitVec 8} (h : idx.toNat ≤ 9) (c : Cfg) (value : Word) :
    ∃ c', writeCfg c idx value = some c' ∧ cfgRegisters c' = (cfgRegisters c).set idx.toNat value := by
  unfold writeCfg
  generalize idx.toNat = n at h
  interval_cases n
  all_goals exact ⟨_, rfl, rfl⟩

section Write
variable {c c' : Cfg} {idx j : BitVec 8} {value : Word}

/-- The register written reads as the value, unchanged (R120). -/
theorem readCfg_same_of_set (hregs : cfgRegisters c' = (cfgRegisters c).set idx.toNat value) (h : idx.toNat ≤ 9) :
    readCfg c' idx = some value := by
  rw [readCfg_eq_getElem?, hregs]
  exact List.getElem?_set_self (Nat.lt_succ_of_le h)

/-- Every other register reads as before (R120). -/
theorem readCfg_other_of_set (hregs : cfgRegisters c' = (cfgRegisters c).set idx.toNat value) (hj : j ≠ idx) :
    readCfg c' j = readCfg c j := by
  have hplace : idx.toNat ≠ j.toNat := fun heq => hj (BitVec.eq_of_toNat_eq heq.symm)
  rw [readCfg_eq_getElem?, readCfg_eq_getElem?, hregs, List.getElem?_set_ne hplace]

/-- CFG_WR of a register answers OK, and changes the register file and the port alone (R120). -/
theorem exec_cfgWr_of_writeCfg {s : State} (h : writeCfg s.cfg idx value = some c') :
    exec (.cfgWr idx value) s = .next (respond .ok [] (s.setCfg c')) := by
  change execCfgWr idx value s = _
  rw [execCfgWr, h]

end Write

end Sys2Proof.Machine

namespace Sys2Proof.Proofs

open Sys2Proof.Machine Sys2Proof.Claims

/-- Settles O18: an index up to 9 is a write at its place in the register file (`exists_writeCfg_eq_some`), one from 10
on is out of range (`exec_cfgWr_outOfRange`). -/
theorem cfgWriteStoresOneRegister : Obligations.CfgWriteStoresOneRegister := by
  refine ⟨byteHeader_cfgWr, fun s idx value => ⟨fun hidx => ?_, fun hidx => exec_cfgWr_outOfRange hidx value s⟩⟩
  obtain ⟨c, hwrite, hregs⟩ := exists_writeCfg_eq_some hidx s.cfg value
  exact ⟨c, readCfg_same_of_set hregs hidx, fun j => readCfg_other_of_set hregs, exec_cfgWr_of_writeCfg hwrite⟩

end Sys2Proof.Proofs
end

section
/-! SUPPORT. The steps of the LED program on any turn of the channel, the stall of its step 0 among them (R150 to
R154). -/

namespace Sys2Proof.Machine

open Sys2Proof.Claims

/-! ## The bit about to be sent -/

/-- With bits left in the register the next one comes from it (R151). -/
theorem comingBit_of_register {l : LedState} (h : l.osrCnt ≠ 24) : comingBit l = some (l.osr.getLsbD 31) := if_neg h

/-- With the register sent and a word queued the next bit is that word's first (R151). -/
theorem comingBit_of_queue {l : LedState} {word : Word} {rest : List Word} (h : l.osrCnt = 24)
    (hq : l.txq = word :: rest) : comingBit l = some (word.getLsbD 31) := by
  rw [comingBit, if_pos h, hq, List.head?_cons, Option.map_some]

theorem shiftedOut_of_register {l : LedState} (h : l.osrCnt ≠ 24) : shiftedOut l =
    { l with bitv := l.osr[31], osr := l.osr <<< 1, osrCnt := l.osrCnt + 1 } := by
  simp only [shiftedOut, shiftWord, if_neg h]
  rfl

theorem shiftedOut_of_queue {l : LedState} {word : Word} {rest : List Word} (h : l.osrCnt = 24)
    (hq : l.txq = word :: rest) : shiftedOut l =
    { l with txq := rest, bitv := word[31], osr := word <<< 1, osrCnt := 1 } := by
  simp only [shiftedOut, shiftWord, if_pos h, hq]
  rfl

/-- SHIFT_OUT with nothing to send: the stall, which drives the side-band only (R151, R157). -/
theorem exec_seqShiftOut_stalls (side : BitVec 2) (delay : BitVec 3) (operand : BitVec 8) {s : State}
    (hcnt : s.led.osrCnt = 24) (hq : s.led.txq = []) :
    exec (.seqShiftOut side delay operand) s = .next (driveLed side s) := by
  change execSeqShiftOut side delay s = _
  have hstall : shiftOut (driveLed side s) = none := shiftOut_eq_none.mpr ⟨hcnt, hq⟩
  simp only [execSeqShiftOut, hstall]

/-! ## The steps of the LED program -/

/-- The turn of `s` is the LED channel's, RUNNING outside a delay with its own program (R108, R150). -/
structure LedStepDue (s : State) : Prop where
  turn : nextAgent s = .led
  running : s.led.state = .running
  delay : s.led.dly = 0
  program : s.led.prog = ledProgram

/-- `s` after one turn that leaves the LED channel at `l`. -/
def ledStepped (s : State) (l : LedState) : State := { s with led := l, env := turnTaken s.env }

section Steps
variable {s : State}

/-- The microword at `led.pc` is what the turn runs (R150). -/
theorem LedStepDue.step_eq_exec {k : Nat} {i : Instr} (h : LedStepDue s) (hpc : s.led.pc = k)
    (hword : ledProgram[k]?.bind decodeMicro = some i) (hmine : i.isLedStep = true) :
    step s = exec i (ledStepped s s.led) :=
  step_led_eq_exec h.turn h.running h.delay (by rw [h.program, hpc, hword]) hmine

/-- `bit_fetch` with a bit to send (R151). -/
theorem LedStepDue.step_bitFetch {bit : Bool} (h : LedStepDue s) (hpc : s.led.pc = 0)
    (hbit : comingBit s.led = some bit) :
    step s = .next (ledStepped s { shiftedOut s.led with out := some false, pc := 1, dly := 1 }) := by
  have hnext : nextIndex s.led.prog s.led.pc = 1 := by rw [h.program, hpc]; rfl
  calc step s
    _ = exec (.seqShiftOut 0#2 1#3 1#8) (ledStepped s s.led) := h.step_eq_exec hpc ledProgram_bitFetch rfl
    _ = .next (ledStepped s { shiftedOut s.led with
          out := some false, pc := nextIndex s.led.prog s.led.pc, dly := 1 }) :=
        exec_seqShiftOut_of_comingBit (s := ledStepped s s.led) _ _ _ hbit
    _ = _ := by rw [hnext]

/-- `bit_fetch` with nothing to send (R151). -/
theorem LedStepDue.step_bitFetch_stalls (h : LedStepDue s) (hpc : s.led.pc = 0) (hcnt : s.led.osrCnt = 24)
    (hq : s.led.txq = []) : step s = .next (ledStepped s { s.led with out := some false }) :=
  (h.step_eq_exec hpc ledProgram_bitFetch rfl).trans
    (exec_seqShiftOut_stalls (s := ledStepped s s.led) _ _ _ hcnt hq)

/-- `bit_test` goes to `one_tail` or `zero_tail` as `led.bitv` says (R152). -/
theorem LedStepDue.step_bitTest (h : LedStepDue s) (hpc : s.led.pc = 1) :
    step s = .next (ledStepped s { s.led with out := some true, pc := if s.led.bitv then 2 else 3, dly := 2 }) := by
  have hnext : nextIndex s.led.prog s.led.pc = 2 := by rw [h.program, hpc]; rfl
  calc step s
    _ = exec (.seqBrz 1#2 2#3 3#8) (ledStepped s s.led) := h.step_eq_exec hpc ledProgram_bitTest rfl
    _ = .next (ledStepped s { s.led with
          out := some true, pc := if s.led.bitv then nextIndex s.led.prog s.led.pc else 3, dly := 2 }) := exec_seqBrz ..
    _ = _ := by rw [hnext]

/-- `one_tail` keeps LEDOUT high and goes back to `bit_fetch` (R153). -/
theorem LedStepDue.step_oneTail (h : LedStepDue s) (hpc : s.led.pc = 2) :
    step s = .next (ledStepped s { s.led with out := some true, pc := 0, dly := 4 }) :=
  (h.step_eq_exec hpc ledProgram_oneTail rfl).trans (exec_seqJump ..)

/-- `zero_tail` takes LEDOUT low and, the program's last step, is followed by `bit_fetch` (R154). -/
theorem LedStepDue.step_zeroTail (h : LedStepDue s) (hpc : s.led.pc = 3) :
    step s = .next (ledStepped s { s.led with out := some false, pc := 0, dly := 4 }) := by
  have hnext : nextIndex s.led.prog s.led.pc = 0 := by rw [h.program, hpc]; rfl
  calc step s
    _ = exec (.seqNop 0#2 4#3 0#8) (ledStepped s s.led) := h.step_eq_exec hpc ledProgram_zeroTail rfl
    _ = .next (ledStepped s { s.led with
          out := some false, pc := nextIndex s.led.prog s.led.pc, dly := 4 }) := exec_seqNop ..
    _ = _ := by rw [hnext]

end Steps

end Sys2Proof.Machine

namespace Sys2Proof.Proofs

open Sys2Proof.Machine Sys2Proof.Claims

/-- Settles O43: one lemma per step of the program; `bit_fetch` sends from the register or from the queue, or stalls. -/
theorem ledProgramTable : Obligations.LedProgramTable := by
  intro s hturn hrun hdly hprog
  have h : LedStepDue s := ⟨hturn, hrun, hdly, hprog⟩
  refine ⟨fun hpc hcnt => ?register, fun word rest hpc hcnt hq => ?queue, h.step_bitFetch_stalls,
    fun hpc hbit => ?zero, fun hpc hbit => ?one, h.step_oneTail, h.step_zeroTail⟩
  case register =>
    rw [h.step_bitFetch hpc (comingBit_of_register hcnt), shiftedOut_of_register hcnt]
    rfl
  case queue =>
    rw [h.step_bitFetch hpc (comingBit_of_queue hcnt hq), shiftedOut_of_queue hcnt hq]
    rfl
  case zero =>
    rw [h.step_bitTest hpc, if_neg (Bool.eq_false_iff.mp hbit)]
    rfl
  case one =>
    rw [h.step_bitTest hpc, if_pos hbit]
    rfl

/-- Settles O44: tick by tick `ticks_symbol_level`, and `ticks_symbol` for where the next step 0 stands. -/
theorem symbolWaveform : Obligations.SymbolWaveform := by
  intro s bit hrun hprog hpc hdly hbit
  have h : AtBitFetch s.led bit := ⟨hrun, hprog, hpc, hdly, hbit⟩
  refine ⟨fun k hk => ticks_symbol_level h hk, _, ticks_symbol h, rfl, rfl, rfl, ?_, rfl⟩
  exact apply_ite (fun word : Word => word <<< 1) (s.led.osrCnt = 24) (s.led.txq.headD 0#32) s.led.osr

/-- Settles O10: a turn in a delay is `step_led_eq_delay`. -/
theorem ledDelayTick : Obligations.LedDelayTick := fun _ => step_led_eq_delay

end Sys2Proof.Proofs
end

section
/-! SUPPORT. The two queries of the receive queue, and what a command of the audio driver answers while that is UNINIT
(R171, R177, R231). -/

namespace Sys2Proof

open Sys2Proof.Claims

/-- An `op` whose commands take no argument words is a command with `a` = 0 only (R93, R94). -/
theorem bareHeader_of_decodeBody {op : BitVec 8} {i : Instr} (h : ∀ a ws, decodeBody op a ws = decodeBare i a ws) :
    bareHeader op i := by
  have hpacket : ∀ a ws, decodePacket (header op a :: ws) = decodeBare i a ws := fun a ws => by
    rw [decodePacket_cons, headerOp_header, headerA_header, h]
  exact fun ws => ⟨(hpacket 0#24 ws).trans (if_pos rfl), fun a ha => (hpacket a ws).trans (if_neg ha)⟩

end Sys2Proof

namespace Sys2Proof.Machine

open Sys2Proof.Claims

section Queries
variable {s : State}

/-- A command of the audio driver is answered E_NOTINIT while the driver is UNINIT (R231). -/
theorem exec_of_audUninit {i : Instr} (hi : needsAudio i = true) (huninit : s.aud.state = .uninit) :
    exec i s = .next (raiseError .eNotInit s) := by
  have hstate : s.aud.state ≠ .running := by rw [huninit]; decide
  cases i with
  | isReadable | readStereo | readStereoNb | readMono | readSamples | readSamplesAvail | getFifoLevel =>
    exact if_pos hstate
  | _ => cases hi

/-- IS_READABLE of the RUNNING driver answers `readable` as a word (R171). -/
theorem exec_isReadable_of_running (hrun : s.aud.state = .running) :
    exec .isReadable s = .next (respond .ok [if readable s then 1#32 else 0#32] s) := if_neg (not_not_intro hrun)

/-- GET_FIFO_LEVEL of the RUNNING driver answers the number of entries (R177). -/
theorem exec_getFifoLevel_of_running (hrun : s.aud.state = .running) :
    exec .getFifoLevel s = .next (respond .ok [countWord s.aud.rxq.length] s) := if_neg (not_not_intro hrun)

/-- `readable` says that a frame, two entries, is queued (R29). -/
theorem readable_iff : readable s ↔ 2 ≤ s.aud.rxq.length := decide_eq_true_iff

/-- IS_READABLE with a frame queued (R171). -/
theorem exec_isReadable_of_frame (hrun : s.aud.state = .running) (hframe : 2 ≤ s.aud.rxq.length) :
    exec .isReadable s = .next (respond .ok [1#32] s) := by
  rw [exec_isReadable_of_running hrun, if_pos (readable_iff.mpr hframe)]

/-- IS_READABLE with less than a frame queued (R171). -/
theorem exec_isReadable_of_short (hrun : s.aud.state = .running) (hshort : s.aud.rxq.length < 2) :
    exec .isReadable s = .next (respond .ok [0#32] s) := by
  rw [exec_isReadable_of_running hrun, if_neg (readable_iff.not.mpr (Nat.not_le.mpr hshort))]

end Queries

end Sys2Proof.Machine

namespace Sys2Proof.Proofs

open Sys2Proof.Machine

/-- Settles O31: the headers by `bareHeader_of_decodeBody`, UNINIT by `exec_of_audUninit`, RUNNING by the equations of
the two queries. -/
theorem levelReadsAnswer : Obligations.LevelReadsAnswer :=
  ⟨bareHeader_of_decodeBody fun _ _ => rfl, bareHeader_of_decodeBody fun _ _ => rfl, fun _ =>
    ⟨fun huninit => ⟨exec_of_audUninit rfl huninit, exec_of_audUninit rfl huninit⟩, exec_getFifoLevel_of_running,
      exec_isReadable_of_frame, exec_isReadable_of_short⟩⟩

end Sys2Proof.Proofs
end

section
/-! SUPPORT. The clock steps of the audio program on any turn of the channel, from its ticks (R191, R193, R195, R197,
R245). -/

namespace Sys2Proof.Machine

open Sys2Proof.Claims

/-! ## Turns and ticks -/

/-- `s` without the schedule's next entry. -/
def unscheduled (s : State) : State := s.setEnv { s.env with schedule := s.env.schedule.tail }

/-- `s` after one turn that leaves the audio channel at `a`. -/
def audStepped (s : State) (a : AudioState) : State := { s with aud := a, env := turnTaken s.env }

section Turn
variable {s : State} {a : AudioState}

/-- The turn of an agent is the tick that gives it the turn in place of the schedule (R245). -/
theorem step_eq_tick {agent : Agent} (hturn : nextAgent s = agent) : step s = tick agent (unscheduled s) := by
  simp only [tick, step, fetch, hturn]
  rfl

/-- What a tick of the audio channel that draws no bit does, the channel's turn does. -/
theorem step_of_tick_audio (hturn : nextAgent s = .audio)
    (htick : tick .audio (unscheduled s) = .next (audLater (unscheduled s) a 0 1)) :
    step s = .next (audStepped s a) :=
  (step_eq_tick hturn).trans htick

end Turn

/-! ## The clock steps -/

section Steps
variable {s : State} {right : Bool}

/-- `clk` with the counter above zero (R191, R195). -/
theorem AtPhaseStep.step_clk_back (h : AtPhaseStep s.aud right 1) (hturn : nextAgent s = .audio)
    (hcnt : s.aud.cnt ≠ 0) : step s = .next (audStepped s { s.aud with
      bclk := some true, ws := some right, cnt := s.aud.cnt - 1, pc := phaseStart right }) :=
  step_of_tick_audio hturn (tick_clk_back (s := unscheduled s) h hcnt)

/-- `clk` with the counter at zero, where it stays (R191, R195). -/
theorem AtPhaseStep.step_clk_out (h : AtPhaseStep s.aud right 1) (hturn : nextAgent s = .audio)
    (hcnt : s.aud.cnt = 0) : step s = .next (audStepped s { s.aud with
      bclk := some true, ws := some right, cnt := 0, pc := phaseStart right + 2 }) := by
  rw [← hcnt]
  exact step_of_tick_audio hturn (tick_clk_out (s := unscheduled s) h hcnt)

/-- `last_clk` (R193, R197). -/
theorem AtPhaseStep.step_lastClk (h : AtPhaseStep s.aud right 3) (hturn : nextAgent s = .audio) :
    step s = .next (audStepped s { s.aud with
      bclk := some true, ws := some !right, cnt := s.aud.w.bits - 2, pc := phaseStart !right }) :=
  step_of_tick_audio hturn (tick_lastClk (s := unscheduled s) h)

end Steps

end Sys2Proof.Machine

namespace Sys2Proof.Proofs

open Sys2Proof.Machine Sys2Proof.Claims

/-- Settles O49: steps 1 and 3 are `clk` and `last_clk` of the left phase, steps 5 and 7 those of the right one. -/
theorem audioClockSteps : Obligations.AudioClockSteps := by
  intro s hturn hrun hprog
  have hat (right : Bool) (k : Nat) (hpc : s.aud.pc = phaseStart right + k) : AtPhaseStep s.aud right k :=
    ⟨hrun, hprog, hpc⟩
  exact ⟨fun hpc => (hat false 1 hpc).step_clk_back hturn, fun hpc => (hat false 1 hpc).step_clk_out hturn,
    fun hpc => (hat false 3 hpc).step_lastClk hturn, fun hpc => (hat true 1 hpc).step_clk_back hturn,
    fun hpc => (hat true 1 hpc).step_clk_out hturn, fun hpc => (hat true 3 hpc).step_lastClk hturn⟩

end Sys2Proof.Proofs
end

section
/-! SUPPORT. The utilities whose results are whole numbers: SAMPLE_TO_MONO and GET_PEAK (R211, R213). -/

namespace Sys2Proof

open Sys2Proof.Claims

/-- An `op` that takes two argument words with `a` = 0 is an illegal header with any other `a` (R93, R94). -/
theorem pairHeader_of_decodeBody {op : BitVec 8} {mk : Word → Word → Instr}
    (h : ∀ a ws, decodeBody op a ws = if a = 0#24 then decodeTwo mk ws else .illegalHeader ws) : pairHeader op mk := by
  have hpacket : ∀ a ws, decodePacket (header op a :: ws) = if a = 0#24 then decodeTwo mk ws else .illegalHeader ws :=
    fun a ws => by rw [decodePacket_cons, headerOp_header, headerA_header, h]
  exact fun ws => ⟨fun x y => (hpacket 0#24 (x :: y :: ws)).trans (if_pos rfl),
    fun a ha => (hpacket a ws).trans (if_neg ha)⟩

end Sys2Proof

namespace Sys2Proof.Machine

/-- A value that fits 32 signed bits is the signed value of its data word (R104). -/
theorem sampleWord_toInt {v : Int} (hlow : -(2 ^ 31) ≤ v) (hhigh : v < 2 ^ 31) : (sampleWord v).toInt = v :=
  BitVec.toInt_ofInt_eq_self (by decide) hlow hhigh

/-- Half the sum of two samples is itself a sample: it does not wrap (R211). -/
theorem monoWord_toInt (left right : Word) :
    (sampleWord ((left.toInt + right.toInt).tdiv 2)).toInt = (left.toInt + right.toInt).tdiv 2 := by
  have hleft := left.le_toInt
  have hleft' := left.toInt_lt
  have hright := right.le_toInt
  have hright' := right.toInt_lt
  obtain hsum | hsum := Int.le_total 0 (left.toInt + right.toInt)
  · rw [Int.tdiv_eq_ediv_of_nonneg hsum]
    exact sampleWord_toInt (by omega) (by omega)
  · rw [← Int.neg_neg (left.toInt + right.toInt), Int.neg_tdiv, Int.tdiv_eq_ediv_of_nonneg (by omega)]
    exact sampleWord_toInt (by omega) (by omega)

/-- The absolute value of a sample fits an unsigned word (R213). -/
theorem peakWord_toNat (x : Word) : ((BitVec.ofNat 32 x.toInt.natAbs).toNat : Int) = |x.toInt| := by
  have hlow := x.le_toInt
  have hhigh := x.toInt_lt
  rw [BitVec.toNat_ofNat, Nat.mod_eq_of_lt (by omega), Int.natCast_natAbs]

end Sys2Proof.Machine

namespace Sys2Proof.Proofs

open Sys2Proof.Machine

/-- Settles O37: the answer is `monoWord_toInt`'s word. -/
theorem monoIsTruncatedAverage : Obligations.MonoIsTruncatedAverage :=
  ⟨pairHeader_of_decodeBody fun _ _ => rfl, fun _ left right => ⟨_, rfl, monoWord_toInt left right⟩⟩

/-- Settles O39: each word is `peakWord_toNat`'s. -/
theorem peakIsAbsoluteValue : Obligations.PeakIsAbsoluteValue :=
  ⟨pairHeader_of_decodeBody fun _ _ => rfl, fun _ left right => ⟨_, _, rfl, peakWord_toNat left, peakWord_toNat right⟩⟩

end Sys2Proof.Proofs
end

section
/-! SUPPORT. The model's floating-point arithmetic over natural numbers and the real numbers it stands for: patterns by their
units of 2^-149, exact reals by their magnitude (R13, R106; log 17). -/

namespace Sys2Proof.Machine

open Sys2Proof.Claims

/-! ## Patterns -/

/-- A pattern denotes its units of 2^-149, with its sign (R106). -/
theorem fpValue_eq_units (p : Word) :
    fpValue p = (if fpSign p then -1 else 1) * ((fpUnits p : ℝ) / 2 ^ 149) := by
  change (if fpSign p then (-1 : ℝ) else 1) * (if fpExponent p = 0 then (fpFraction p : ℝ) / 2 ^ 149
    else ((2 ^ 23 + fpFraction p : ℕ) : ℝ) * 2 ^ fpExponent p / 2 ^ 150) = _
  congr 1
  by_cases hexp : fpExponent p = 0
  · rw [fpUnits, if_pos hexp, if_pos hexp]
  · rw [fpUnits, if_neg hexp, if_neg hexp]
    obtain ⟨e, he⟩ := Nat.exists_eq_add_one_of_ne_zero hexp
    rw [he, Nat.add_sub_cancel]
    push_cast
    ring

theorem abs_fpValue (p : Word) : |fpValue p| = (fpUnits p : ℝ) / 2 ^ 149 := by
  rw [fpValue_eq_units, abs_mul, abs_of_nonneg (show (0 : ℝ) ≤ fpUnits p / 2 ^ 149 by positivity)]
  split <;> simp

theorem fpFinite_iff {p : Word} : fpFinite p = true ↔ fpIsFinite p := bne_iff_ne

/-- The units of a finite pattern are a significand `m` below 2^24 over `2 ^ t` that is normalised or has `t` = 0, and the
pattern is put together from the two (R106). -/
theorem fpUnits_eq_significand {p : Word} (h : fpIsFinite p) :
    ∃ t m, fpUnits p = m * 2 ^ t ∧ m < 2 ^ 24 ∧ (t ≠ 0 → 2 ^ 23 ≤ m) ∧ t * 2 ^ 23 + m < 0x7F800000 := by
  have hexp : fpExponent p < 256 := BitVec.isLt _
  have hfrac : fpFraction p < 2 ^ 23 := BitVec.isLt _
  have hne : fpExponent p ≠ 255 := h
  rw [fpUnits]
  split
  · exact ⟨0, fpFraction p, by omega, by omega, by omega, by omega⟩
  · exact ⟨fpExponent p - 1, 2 ^ 23 + fpFraction p, rfl, by omega, by omega, by omega⟩

/-! ## Patterns put together from a significand -/

section OfSignificand
variable {t m : Nat} (neg : Bool)

/-- The pattern of magnitude bits `n` with a sign. -/
def signedPattern (neg : Bool) (n : Nat) : Word := BitVec.ofNat 32 (if neg then 2 ^ 31 + n else n)

theorem signedPattern_toNat {n : Nat} (h : n < 2 ^ 31) :
    (signedPattern neg n).toNat = if neg then 2 ^ 31 + n else n := by
  rw [signedPattern, BitVec.toNat_ofNat]
  split <;> omega

theorem fpSign_signedPattern {n : Nat} (h : n < 2 ^ 31) : fpSign (signedPattern neg n) = neg := by
  rw [fpSign, BitVec.getLsbD, signedPattern_toNat neg h, Nat.testBit_eq_decide_div_mod_eq]
  cases neg <;> simp <;> omega

theorem fpExponent_signedPattern {n : Nat} (h : n < 2 ^ 31) : fpExponent (signedPattern neg n) = n / 2 ^ 23 := by
  rw [fpExponent, BitVec.extractLsb'_toNat, signedPattern_toNat neg h, Nat.shiftRight_eq_div_pow]
  split <;> omega

theorem fpFraction_signedPattern {n : Nat} (h : n < 2 ^ 31) : fpFraction (signedPattern neg n) = n % 2 ^ 23 := by
  rw [fpFraction, BitVec.extractLsb'_toNat, signedPattern_toNat neg h, Nat.shiftRight_zero]
  split <;> omega

theorem fpIsFinite_signedPattern {n : Nat} (h : n < 0x7F800000) : fpIsFinite (signedPattern neg n) := by
  change fpExponent _ ≠ 255
  rw [fpExponent_signedPattern neg (by omega)]
  omega

/-- The pattern put together from a significand `m` and an exponent `t` has `m * 2 ^ t` units, the carry of a significand
that was rounded up to 2^24 included (R106). -/
theorem fpUnits_signedPattern (hle : m ≤ 2 ^ 24) (hnormal : t ≠ 0 → 2 ^ 23 ≤ m)
    (hfinite : t * 2 ^ 23 + m < 0x7F800000) :
    fpUnits (signedPattern neg (t * 2 ^ 23 + m)) = m * 2 ^ t := by
  rw [fpUnits, fpExponent_signedPattern neg (by omega), fpFraction_signedPattern neg (by omega)]
  obtain hsub | hnorm := Nat.lt_or_ge m (2 ^ 23)
  · have ht : t = 0 := by by_contra ht; exact absurd (hnormal ht) (by omega)
    subst t
    rw [if_pos (by omega)]
    omega
  rw [if_neg (by omega)]
  obtain hlt | hcarry := Nat.lt_or_eq_of_le hle
  · rw [show (t * 2 ^ 23 + m) / 2 ^ 23 - 1 = t by omega, show 2 ^ 23 + (t * 2 ^ 23 + m) % 2 ^ 23 = m by omega]
  · rw [show (t * 2 ^ 23 + m) / 2 ^ 23 - 1 = t + 1 by omega, show 2 ^ 23 + (t * 2 ^ 23 + m) % 2 ^ 23 = 2 ^ 23 by omega,
      hcarry]
    ring

end OfSignificand

/-! ## Exact reals -/

/-- The absolute value of the real an `ExactReal` stands for. -/
noncomputable def magnitude (x : ExactReal) : ℝ :=
  if x.root then Real.sqrt ((x.num : ℝ) / x.den) else (x.num : ℝ) / x.den

theorem realOf_eq_magnitude (x : ExactReal) : realOf x = (if x.neg then -1 else 1) * magnitude x := rfl

theorem magnitude_nonneg (x : ExactReal) : 0 ≤ magnitude x := by
  rw [magnitude]
  split <;> positivity

theorem abs_realOf (x : ExactReal) : |realOf x| = magnitude x := by
  rw [realOf_eq_magnitude, abs_mul, abs_of_nonneg (magnitude_nonneg x)]
  split <;> simp

/-- `exactPower` over the reals: `r`, or its square for a root. -/
noncomputable def realPower (x : ExactReal) (r : ℝ) : ℝ := if x.root then r * r else r

theorem exactPower_cast (x : ExactReal) (m : Nat) : ((exactPower x m : ℕ) : ℝ) = realPower x m := by
  rw [exactPower, realPower]
  split <;> simp

theorem realPower_le_realPower {x : ExactReal} {r r' : ℝ} (hr : 0 ≤ r) (hr' : 0 ≤ r') :
    realPower x r ≤ realPower x r' ↔ r ≤ r' := by
  rw [realPower, realPower]
  split
  · exact (mul_self_le_mul_self_iff hr hr').symm
  · exact Iff.rfl

section Compare
variable {x : ExactReal} (hden : 0 < x.den) {c m : Nat}
include hden

/-- The numerator compared by the model's tests is the power of the scaled magnitude times the denominator. -/
theorem num_mul_exactPower (c : Nat) :
    ((x.num * exactPower x c : ℕ) : ℝ) = realPower x (magnitude x * c) * x.den := by
  have hden' : (x.den : ℝ) ≠ 0 := by positivity
  rw [Nat.cast_mul, exactPower_cast, realPower, realPower, magnitude]
  split
  · have hsq := Real.mul_self_sqrt (show (0 : ℝ) ≤ x.num / x.den by positivity)
    rw [mul_mul_mul_comm, hsq]
    field_simp
  · field_simp

theorem scaledLe_iff : scaledLe x c m = true ↔ magnitude x * c ≤ m := by
  have hden' : (0 : ℝ) < x.den := by positivity
  have hmag := magnitude_nonneg x
  rw [scaledLe, decide_eq_true_iff, ← Nat.cast_le (α := ℝ), num_mul_exactPower hden, Nat.cast_mul, exactPower_cast,
    mul_le_mul_iff_left₀ hden', realPower_le_realPower (by positivity) (by positivity)]

theorem leScaled_iff : leScaled x c m = true ↔ (m : ℝ) ≤ magnitude x * c := by
  have hden' : (0 : ℝ) < x.den := by positivity
  have hmag := magnitude_nonneg x
  rw [leScaled, decide_eq_true_iff, ← Nat.cast_le (α := ℝ), num_mul_exactPower hden, Nat.cast_mul, exactPower_cast,
    mul_le_mul_iff_left₀ hden', realPower_le_realPower (by positivity) (by positivity)]

theorem scaledEq_iff : scaledEq x c m = true ↔ magnitude x * c = m := by
  rw [le_antisymm_iff (a := magnitude x * c), ← scaledLe_iff hden, ← leScaled_iff hden, scaledEq, scaledLe, leScaled,
    beq_iff_eq, decide_eq_true_iff, decide_eq_true_iff]
  omega

end Compare

/-! ## Whole parts -/

/-- The bitwise search ends at the whole part of the root, when that lies in the `2 ^ k` values from `r` on. -/
theorem isqrtFrom_eq_sqrt {n k r : Nat} (hlow : r * r ≤ n) (hhigh : n < (r + 2 ^ k) * (r + 2 ^ k)) :
    isqrtFrom n k r = Nat.sqrt n := by
  induction k generalizing r with
  | zero => exact Nat.eq_sqrt.mpr ⟨hlow, hhigh⟩
  | succ k ih =>
    rw [isqrtFrom]
    split
    case isTrue hbit => exact ih hbit (by rwa [Nat.add_assoc, ← Nat.two_mul, ← Nat.pow_succ'])
    case isFalse hbit => exact ih hlow (Nat.lt_of_not_le hbit)

theorem isqrt_eq_sqrt (n : Nat) : isqrt n = Nat.sqrt n := by
  refine isqrtFrom_eq_sqrt (Nat.zero_le n) ?_
  rw [Nat.zero_add, ← Nat.pow_add]
  exact Nat.lt_log2_self.trans_le (Nat.pow_le_pow_right (by omega) (by omega))

/-- `floorAt` is the whole part of the scaled magnitude. -/
theorem floorAt_eq_floor {x : ExactReal} (hden : 0 < x.den) (k : Nat) : floorAt x k = ⌊magnitude x * 2 ^ k⌋₊ := by
  have hmag := magnitude_nonneg x
  have hscaled {m : Nat} : leScaled x (2 ^ k) m = true ↔ (m : ℝ) ≤ magnitude x * 2 ^ k := by
    rw [leScaled_iff hden, Nat.cast_pow, Nat.cast_ofNat]
  refine eq_of_forall_le_iff fun m => ?_
  rw [Nat.le_floor_iff (by positivity), ← hscaled, leScaled, decide_eq_true_iff, floorAt, exactPower, exactPower]
  split
  · rw [isqrt_eq_sqrt, Nat.le_sqrt, Nat.le_div_iff_mul_le hden]
  · rw [Nat.le_div_iff_mul_le hden]

end Sys2Proof.Machine
end

section
/-! SUPPORT. Rounding to nearest, ties to even, of binary32: the significand and the exponent it ends with, how far they
are from the real, and where they are the real (R12, R126; log 17). -/

namespace Sys2Proof.Machine

open Sys2Proof.Claims

/-! ## Half to even -/

/-- What was rounded lies within half a unit of the last place of the result. -/
theorem abs_roundHalfEven_sub_le {q cut shift : Nat} {exact : Bool} {r : ℝ} (hshift : shift ≠ 0) (hcut : cut < 2 ^ shift)
    (hlow : ((q * 2 ^ shift + cut : ℕ) : ℝ) ≤ r) (hhigh : r < ((q * 2 ^ shift + cut : ℕ) : ℝ) + 1)
    (hexact : exact = true → r = ((q * 2 ^ shift + cut : ℕ) : ℝ)) :
    |((roundHalfEven q cut shift exact * 2 ^ shift : ℕ) : ℝ) - r| ≤ 2 ^ shift / 2 := by
  obtain ⟨k, rfl⟩ := Nat.exists_eq_add_one_of_ne_zero hshift
  have hcut' : (cut : ℝ) + 1 ≤ 2 ^ k * 2 := by exact_mod_cast hcut
  have hup : 2 ^ k ≤ cut → |(((q + 1) * 2 ^ (k + 1) : ℕ) : ℝ) - r| ≤ 2 ^ (k + 1) / 2 := fun h => by
    have h' : (2 : ℝ) ^ k ≤ cut := by exact_mod_cast h
    push_cast [pow_succ] at hlow hhigh ⊢
    rw [abs_le]
    constructor <;> linarith
  simp only [roundHalfEven, Nat.add_sub_cancel]
  split
  case isTrue hover => exact hup hover.le
  case isFalse hover =>
    split
    case isTrue hhalf =>
      split
      · exact hup hhalf.ge
      case isFalse htie =>
        have hr := hexact (by simp_all)
        rw [hr, hhalf, abs_le]
        push_cast [pow_succ]
        have := pow_pos (two_pos : (0 : ℝ) < 2) k
        constructor <;> linarith
    case isFalse hhalf =>
      have hless : (cut : ℝ) + 1 ≤ 2 ^ k := by exact_mod_cast Nat.succ_le_of_lt (by omega)
      push_cast [pow_succ] at hlow hhigh ⊢
      rw [abs_le]
      constructor <;> linarith

theorem roundHalfEven_bounds (q cut shift : Nat) (exact : Bool) :
    q ≤ roundHalfEven q cut shift exact ∧ roundHalfEven q cut shift exact ≤ q + 1 := by
  simp only [roundHalfEven]
  split_ifs <;> omega

/-- Nothing is rounded where nothing is cut off. -/
theorem roundHalfEven_zero (q shift : Nat) (exact : Bool) : roundHalfEven q 0 shift exact = q := by
  have hhalf := Nat.two_pow_pos (shift - 1)
  rw [roundHalfEven, if_neg (by omega), if_neg (by omega)]

/-! ## Significand and exponent -/

/-- The exponent of the last place that `x` is rounded at, in units of 2^-149: 24 binary places are kept, fewer where the
unit is 2^-149 itself. -/
def roundExponent (x : ExactReal) : Nat := Nat.log2 (floorAt x 180) - 54

/-- The significand `x` is rounded to. -/
def roundSignificand (x : ExactReal) : Nat :=
  let h := floorAt x 180
  let shift := roundExponent x + 31
  roundHalfEven (h / 2 ^ shift) (h % 2 ^ shift) shift (scaledEq x (2 ^ 180) h)

/-- The magnitude bits of nearest-even are its significand over its exponent, up to infinity. -/
theorem nearestEvenMagnitude_eq (x : ExactReal) :
    nearestEvenMagnitude x = min (roundExponent x * 2 ^ 23 + roundSignificand x) 0x7F800000 := by
  have hshift : max (Nat.log2 (floorAt x 180) - 23) 31 = roundExponent x + 31 := by
    rw [roundExponent]; omega
  simp only [nearestEvenMagnitude, roundSignificand, hshift, Nat.add_sub_cancel]

/-- The whole part has no more places above the last one than the significand holds. -/
theorem floorAt_lt (x : ExactReal) : floorAt x 180 < 2 ^ 24 * 2 ^ (roundExponent x + 31) := by
  rw [← Nat.pow_add]
  exact Nat.lt_log2_self.trans_le (Nat.pow_le_pow_right (by omega) (by rw [roundExponent]; omega))

/-- A last place above 2^-149 is the one of a significand with all its places. -/
theorem le_floorAt {x : ExactReal} (h : roundExponent x ≠ 0) : 2 ^ 23 * 2 ^ (roundExponent x + 31) ≤ floorAt x 180 := by
  have hlog : roundExponent x + 54 = Nat.log2 (floorAt x 180) := by rw [roundExponent] at h ⊢; omega
  have hne : floorAt x 180 ≠ 0 := fun h0 => by rw [h0, Nat.log2_zero] at hlog; omega
  rw [← Nat.pow_add, show 23 + (roundExponent x + 31) = Nat.log2 (floorAt x 180) by omega]
  exact Nat.log2_self_le hne

theorem roundSignificand_le (x : ExactReal) : roundSignificand x ≤ 2 ^ 24 :=
  (roundHalfEven_bounds ..).2.trans ((Nat.div_lt_iff_lt_mul (by positivity)).mpr (floorAt_lt x))

theorem le_roundSignificand {x : ExactReal} (h : roundExponent x ≠ 0) : 2 ^ 23 ≤ roundSignificand x :=
  ((Nat.le_div_iff_mul_le (by positivity)).mpr (le_floorAt h)).trans (roundHalfEven_bounds ..).1

/-! ## How far the rounding goes -/

section Error
variable {x : ExactReal} (hden : 0 < x.den)
include hden

/-- The magnitude in units of `2 ^ -k` lies between its whole part and the next number. -/
theorem floorAt_bounds (k : Nat) :
    (floorAt x k : ℝ) ≤ magnitude x * 2 ^ k ∧ magnitude x * 2 ^ k < floorAt x k + 1 := by
  have hmag := magnitude_nonneg x
  rw [floorAt_eq_floor hden]
  exact ⟨Nat.floor_le (by positivity), Nat.lt_floor_add_one _⟩

/-- The rounding goes at most half a unit of the last place. -/
theorem abs_roundSignificand_sub_le :
    |((roundSignificand x * 2 ^ roundExponent x : ℕ) : ℝ) - magnitude x * 2 ^ 149| ≤ 2 ^ roundExponent x / 2 := by
  obtain ⟨hlow, hhigh⟩ := floorAt_bounds hden 180
  have hsplit := Nat.div_add_mod' (floorAt x 180) (2 ^ (roundExponent x + 31))
  have herr : |((roundSignificand x * 2 ^ (roundExponent x + 31) : ℕ) : ℝ) - magnitude x * 2 ^ 180| ≤
      2 ^ (roundExponent x + 31) / 2 := by
    refine abs_roundHalfEven_sub_le (by omega) (Nat.mod_lt _ (by positivity)) ?_ ?_ fun hexact => ?_
    · rwa [hsplit]
    · rwa [hsplit]
    · rw [hsplit, ← (scaledEq_iff hden).mp hexact, Nat.cast_pow, Nat.cast_ofNat]
  rw [abs_le] at herr ⊢
  push_cast [pow_add] at herr ⊢
  constructor <;> linarith

/-- A real of 2^-126 or more is at least 2^23 units of the last place. -/
theorem le_magnitude_of_normal (hnormal : 1 ≤ magnitude x * 2 ^ 126) :
    2 ^ 23 * 2 ^ roundExponent x ≤ magnitude x * 2 ^ 149 := by
  by_cases hexp : roundExponent x = 0
  · rw [hexp]; linarith
  · have hle : ((2 ^ 23 * 2 ^ (roundExponent x + 31) : ℕ) : ℝ) ≤ floorAt x 180 := by exact_mod_cast le_floorAt hexp
    have hlow := (floorAt_bounds hden 180).1
    push_cast [pow_add] at hle
    linarith

/-- A real from 2^-126 to 2^126 is rounded to a finite pattern. -/
theorem round_finite (hnormal : 1 ≤ magnitude x * 2 ^ 126) (hle : magnitude x ≤ 2 ^ 126) :
    roundExponent x * 2 ^ 23 + roundSignificand x < 0x7F800000 := by
  have hulp := le_magnitude_of_normal hden hnormal
  have hpow : (2 : ℝ) ^ roundExponent x ≤ 2 ^ 252 := by linarith
  have hexp : roundExponent x ≤ 252 := (pow_le_pow_iff_right₀ one_lt_two).mp hpow
  have hsig := roundSignificand_le x
  omega

/-- A real of `m * 2 ^ t` units of 2^-149, `m` below 2^24 and normalised where `t` is not 0, keeps all its places. -/
theorem round_of_units {m t : Nat} (hunits : magnitude x * 2 ^ 149 = (m * 2 ^ t : ℕ)) (hlt : m < 2 ^ 24)
    (hnormal : t ≠ 0 → 2 ^ 23 ≤ m) : roundExponent x = t ∧ roundSignificand x = m := by
  have hfloor : floorAt x 180 = m * 2 ^ (t + 31) := by
    rw [floorAt_eq_floor hden, show magnitude x * 2 ^ 180 = ((m * 2 ^ (t + 31) : ℕ) : ℝ) by
      push_cast [pow_add] at hunits ⊢; linarith, Nat.floor_natCast]
  have hexp : roundExponent x = t := by
    by_cases ht : t = 0
    · have hlog : floorAt x 180 < 2 ^ 55 := by rw [hfloor, ht]; omega
      by_cases h0 : floorAt x 180 = 0
      · rw [roundExponent, h0, ht, Nat.log2_zero]
      · have := (Nat.log2_lt h0).mpr hlog
        rw [roundExponent]; omega
    · have hlow : 2 ^ (23 + (t + 31)) ≤ floorAt x 180 := by
        rw [hfloor, Nat.pow_add]
        exact Nat.mul_le_mul_right _ (hnormal ht)
      have hhigh : floorAt x 180 < 2 ^ (23 + (t + 31) + 1) := by
        rw [hfloor, show 23 + (t + 31) + 1 = 24 + (t + 31) by omega, Nat.pow_add 2 24]
        exact Nat.mul_lt_mul_of_pos_right hlt (by positivity)
      have hlog := (Nat.log2_eq_iff (by have := Nat.two_pow_pos (23 + (t + 31)); omega)).mpr ⟨hlow, hhigh⟩
      rw [roundExponent, hlog]; omega
  refine ⟨hexp, ?_⟩
  simp only [roundSignificand, hexp, hfloor, Nat.mul_mod_left, roundHalfEven_zero]
  exact Nat.mul_div_cancel _ (by positivity)

end Error

end Sys2Proof.Machine
end

section
/-! SUPPORT. `fp_round` on the real numbers: exact on a floating-point value, and within FP_TOL where the real is neither
too small nor too large for a normalised pattern (R12, R126; log 7, log 21). -/

namespace Sys2Proof.Machine

open Sys2Proof.Claims

/-! ## Nearest-even -/

/-- Nearest-even is the pattern of its magnitude bits, signed where they are not zero (R212). -/
theorem nearestEven_eq_signedPattern (x : ExactReal) :
    nearestEven x = signedPattern (x.neg && nearestEvenMagnitude x != 0) (nearestEvenMagnitude x) := rfl

/-- What passes the model's test of FP_TOL: a finite pattern with the sign of the real, between the two bounds of R126. -/
theorem of_withinTolerance {par : RunParams} {x : ExactReal} {p : Word} (h : withinTolerance par x p = true) :
    fpIsFinite p ∧ fpSign p = x.neg ∧
      leScaled x (2 ^ 149 * (par.fpTolDen + par.fpTolNum)) (fpUnits p * par.fpTolDen) = true ∧
      scaledLe x (2 ^ 149 * (par.fpTolDen - par.fpTolNum)) (fpUnits p * par.fpTolDen) = true := by
  simp only [withinTolerance, Bool.and_eq_true, beq_iff_eq] at h
  obtain ⟨⟨⟨hfinite, hsign⟩, habove⟩, hbelow⟩ := h
  exact ⟨fpFinite_iff.mp hfinite, hsign, habove, hbelow⟩

/-- Only a negative real is rounded to a negative pattern. -/
theorem fpSign_nearestEven_of_nonneg {x : ExactReal} (hneg : x.neg = false) : fpSign (nearestEven x) = false := by
  have hle : nearestEvenMagnitude x ≤ 0x7F800000 := by rw [nearestEvenMagnitude_eq]; omega
  rw [nearestEven_eq_signedPattern, fpSign_signedPattern _ (by omega), hneg, Bool.false_and]

section Finite
variable {x : ExactReal} (hfinite : roundExponent x * 2 ^ 23 + roundSignificand x < 0x7F800000)
include hfinite

theorem fpIsFinite_nearestEven : fpIsFinite (nearestEven x) := by
  rw [nearestEven_eq_signedPattern, nearestEvenMagnitude_eq, Nat.min_eq_left hfinite.le]
  exact fpIsFinite_signedPattern _ hfinite

/-- The units of nearest-even are its significand over its exponent. -/
theorem fpUnits_nearestEven : fpUnits (nearestEven x) = roundSignificand x * 2 ^ roundExponent x := by
  rw [nearestEven_eq_signedPattern, nearestEvenMagnitude_eq, Nat.min_eq_left hfinite.le]
  exact fpUnits_signedPattern _ (roundSignificand_le x) le_roundSignificand hfinite

/-- Nearest-even has the sign of the real and the units it rounds to; a zero has either sign. -/
theorem fpValue_nearestEven :
    fpValue (nearestEven x) = (if x.neg then -1 else 1) * ((fpUnits (nearestEven x) : ℝ) / 2 ^ 149) := by
  by_cases hzero : nearestEvenMagnitude x = 0
  · have hsig : roundSignificand x = 0 := by
      rw [nearestEvenMagnitude_eq, Nat.min_eq_left hfinite.le] at hzero; omega
    rw [fpValue_eq_units, fpUnits_nearestEven hfinite, hsig]
    simp
  · have hle : nearestEvenMagnitude x < 2 ^ 31 := by rw [nearestEvenMagnitude_eq]; omega
    have hsign : fpSign (nearestEven x) = x.neg := by
      rw [nearestEven_eq_signedPattern, fpSign_signedPattern _ hle, bne_iff_ne.mpr hzero, Bool.and_true]
    rw [fpValue_eq_units, hsign]

end Finite

/-- Zero is a floating-point value. -/
theorem isBinary32_of_zero {x : ExactReal} (hzero : magnitude x = 0) : isBinary32 (realOf x) := by
  refine ⟨0#32, fpFinite_iff.mp rfl, ?_⟩
  rw [realOf_eq_magnitude, hzero, fpValue_eq_units, show fpUnits 0#32 = 0 from rfl]
  simp

/-- The distance of two reals of one sign is that of their magnitudes. -/
theorem abs_sign_mul_sub (neg : Bool) (a b : ℝ) :
    |(if neg then -1 else 1) * a - (if neg then -1 else 1) * b| = |a - b| := by
  rw [← mul_sub, abs_mul]
  cases neg <;> simp

section Rounded
variable {x : ExactReal} (hden : 0 < x.den)
include hden

/-- The relative error of nearest-even is at most 2^-24. -/
theorem abs_nearestEven_sub_le (hnormal : 1 ≤ magnitude x * 2 ^ 126) (hle : magnitude x ≤ 2 ^ 126) :
    |fpValue (nearestEven x) - realOf x| ≤ magnitude x / 2 ^ 24 := by
  have hfinite := round_finite hden hnormal hle
  have herr := abs_roundSignificand_sub_le hden
  have hulp := le_magnitude_of_normal hden hnormal
  rw [fpValue_nearestEven hfinite, fpUnits_nearestEven hfinite, realOf_eq_magnitude, abs_sign_mul_sub]
  rw [abs_le] at herr ⊢
  obtain ⟨hlow, hhigh⟩ := herr
  constructor <;> linarith

/-- A real that is a floating-point value is rounded to a finite pattern that denotes it. -/
theorem nearestEven_exact (hvalue : isBinary32 (realOf x)) :
    fpIsFinite (nearestEven x) ∧ (fpUnits (nearestEven x) : ℝ) = magnitude x * 2 ^ 149 ∧
      fpValue (nearestEven x) = realOf x := by
  obtain ⟨p, hp, hval⟩ := hvalue
  obtain ⟨t, m, hunits, hlt, hnormal, hmax⟩ := fpUnits_eq_significand hp
  have hmag : magnitude x * 2 ^ 149 = (m * 2 ^ t : ℕ) := by
    rw [← abs_realOf, ← hval, abs_fpValue, hunits]
    exact div_mul_cancel₀ _ (by positivity)
  obtain ⟨hexp, hsig⟩ := round_of_units hden hmag hlt hnormal
  have hfinite : roundExponent x * 2 ^ 23 + roundSignificand x < 0x7F800000 := by rwa [hexp, hsig]
  have hsame : (fpUnits (nearestEven x) : ℝ) = magnitude x * 2 ^ 149 := by
    rw [fpUnits_nearestEven hfinite, hexp, hsig, hmag]
  refine ⟨fpIsFinite_nearestEven hfinite, hsame, ?_⟩
  rw [fpValue_nearestEven hfinite, hsame, realOf_eq_magnitude, mul_div_cancel_right₀ _ (by positivity)]

/-! ## `fp_round` -/

/-- A real that is a floating-point value passes the model's test for one. -/
theorem representable_of_isBinary32 (hvalue : isBinary32 (realOf x)) : representable x = true := by
  obtain ⟨hfinite, hunits, -⟩ := nearestEven_exact hden hvalue
  simp only [representable, Bool.and_eq_true]
  refine ⟨fpFinite_iff.mpr hfinite, (scaledEq_iff hden).mpr ?_⟩
  rw [hunits, Nat.cast_pow, Nat.cast_ofNat]

/-- `fp_round` is exact on the floating-point values, under every rounding (R126). -/
theorem fpRound_exact (par : RunParams) (hvalue : isBinary32 (realOf x)) :
    fpIsFinite (fpRound par x) ∧ fpValue (fpRound par x) = realOf x := by
  rw [fpRound_of_representable par (representable_of_isBinary32 hden hvalue)]
  obtain ⟨hfinite, -, hval⟩ := nearestEven_exact hden hvalue
  exact ⟨hfinite, hval⟩

/-- What passes the model's test of FP_TOL lies within FP_TOL of the real (R126). -/
theorem abs_sub_le_of_withinTolerance {par : RunParams} {p : Word} (htol : 0 < par.fpTolDen)
    (h : withinTolerance par x p = true) :
    |fpValue p - realOf x| ≤ (par.fpTolNum : ℝ) / par.fpTolDen * |realOf x| := by
  obtain ⟨-, hsign, habove, hbelow⟩ := of_withinTolerance h
  rw [leScaled_iff hden] at habove
  rw [scaledLe_iff hden] at hbelow
  have hmag := magnitude_nonneg x
  have htol' : (0 : ℝ) < par.fpTolDen := by exact_mod_cast htol
  have hsub : (par.fpTolDen : ℝ) - par.fpTolNum ≤ ((par.fpTolDen - par.fpTolNum : ℕ) : ℝ) := by
    rw [sub_le_iff_le_add]; exact_mod_cast le_tsub_add
  have hsub' := mul_le_mul_of_nonneg_left hsub hmag
  rw [abs_realOf, realOf_eq_magnitude, fpValue_eq_units, hsign, abs_sign_mul_sub, div_mul_eq_mul_div, le_div_iff₀ htol',
    ← abs_of_pos htol', ← abs_mul, abs_le]
  push_cast at habove hbelow
  constructor <;> linarith

/-- `fp_round` stays within FP_TOL of a real from 2^-126 to 2^126, when FP_TOL is at least 2^-23 (R126). -/
theorem fpRound_within {par : RunParams} (hnormal : 1 ≤ magnitude x * 2 ^ 126) (hle : magnitude x ≤ 2 ^ 126)
    (htol : 0 < par.fpTolDen) (htol' : par.fpTolDen ≤ par.fpTolNum * 2 ^ 23) :
    fpIsFinite (fpRound par x) ∧
      |fpValue (fpRound par x) - realOf x| ≤ (par.fpTolNum : ℝ) / par.fpTolDen * |realOf x| := by
  obtain hround | ⟨-, -, hwithin⟩ := fpRound_cases par x
  · rw [hround]
    refine ⟨fpIsFinite_nearestEven (round_finite hden hnormal hle), (abs_nearestEven_sub_le hden hnormal hle).trans ?_⟩
    have hden' : (0 : ℝ) < par.fpTolDen := by exact_mod_cast htol
    have hulp : (1 : ℝ) / 2 ^ 24 ≤ par.fpTolNum / par.fpTolDen := by
      rw [div_le_div_iff₀ (by positivity) hden']
      have : (par.fpTolDen : ℝ) ≤ par.fpTolNum * 2 ^ 23 := by exact_mod_cast htol'
      linarith
    have := mul_le_mul_of_nonneg_right hulp (magnitude_nonneg x)
    rw [abs_realOf]
    linarith
  · obtain ⟨hfinite, -⟩ := of_withinTolerance hwithin
    exact ⟨hfinite, abs_sub_le_of_withinTolerance hden htol hwithin⟩

/-- `fp_round` answers +0.0 for zero, under every rounding (R212, R214). -/
theorem fpRound_zero (par : RunParams) (hzero : magnitude x = 0) : fpRound par x = 0#32 := by
  obtain ⟨hexp, hsig⟩ := round_of_units (m := 0) (t := 0) hden (by rw [hzero]; simp) (by omega) (by omega)
  rw [fpRound_of_representable par (representable_of_isBinary32 hden (isBinary32_of_zero hzero)),
    nearestEven_eq_signedPattern, nearestEvenMagnitude_eq, hexp, hsig]
  simp [signedPattern]

end Rounded

/-- `fp_round` answers no negative number for a real that is none. -/
theorem fpRound_nonneg (par : RunParams) {x : ExactReal} (hneg : x.neg = false) : 0 ≤ fpValue (fpRound par x) := by
  have hsign : fpSign (fpRound par x) = false := by
    obtain hround | ⟨-, -, hwithin⟩ := fpRound_cases par x
    · rw [hround, fpSign_nearestEven_of_nonneg hneg]
    · obtain ⟨-, hsign, -⟩ := of_withinTolerance hwithin
      rw [hsign, hneg]
  rw [fpValue_eq_units, hsign]
  simp only [Bool.false_eq_true, if_false, one_mul]
  positivity

end Sys2Proof.Machine
end

section
/-! SUPPORT. GET_RMS: its packet of pairs, and the root mean square of one channel (R93, R214). -/

namespace Sys2Proof

/-- The argument words of GET_RMS, pair after pair (R93). -/
theorem flatMap_eq_pairWords (samples : List (Word × Word)) :
    samples.flatMap (fun p => [p.1, p.2]) = pairWords samples := by
  induction samples with
  | nil => rfl
  | cons p ps ih => rw [List.flatMap_cons, ih]; rfl

/-- GET_RMS's packet (R93). -/
theorem decodePacket_getRms {samples : List (Word × Word)} (h : samples.length < 2 ^ 24) (ws : List Word) :
    decodePacket (header 0x33#8 (BitVec.ofNat 24 samples.length) :: (pairWords samples ++ ws)) =
      .instr (.getRms samples) ws := by
  rw [decodePacket_cons, headerOp_header, headerA_header]
  change decodePairs (BitVec.ofNat 24 samples.length).toNat (pairWords samples ++ ws) = _
  rw [BitVec.toNat_ofNat, Nat.mod_eq_of_lt h, decodePairs, takePairs_pairWords]

end Sys2Proof

namespace Sys2Proof.Machine

open Sys2Proof.Claims

section Channel
variable {channel : List Word}

/-- The mean of squares as the real number R214 writes. -/
theorem realOf_rootMeanSquare (channel : List Word) : realOf (rootMeanSquare channel) =
    Real.sqrt ((channel.map fun x => (x.toInt : ℝ) ^ 2).sum / channel.length) := by
  have hsum : (sumSquares channel : ℝ) = (channel.map fun x => (x.toInt : ℝ) ^ 2).sum := by
    rw [sumSquares, Nat.cast_list_sum, List.map_map]
    congr 2
    funext x
    simp [Nat.cast_natAbs]
  rw [← hsum]
  exact one_mul _

theorem sumSquares_le (channel : List Word) : sumSquares channel ≤ channel.length * 2 ^ 62 := by
  have hsquare : ∀ n ∈ channel.map fun x => x.toInt.natAbs ^ 2, n ≤ 2 ^ 62 := by
    simp only [List.mem_map, forall_exists_index, and_imp, forall_apply_eq_imp_iff₂]
    intro x _
    have hlow := x.le_toInt
    have hhigh := x.toInt_lt
    exact (Nat.pow_le_pow_left (show x.toInt.natAbs ≤ 2 ^ 31 by omega) 2).trans (by norm_num)
  simpa [sumSquares] using List.sum_le_card_nsmul _ _ hsquare

theorem sumSquares_eq_zero : sumSquares channel = 0 ↔ ∀ x ∈ channel, x = 0#32 := by
  simp [sumSquares, List.sum_eq_zero_iff, ← BitVec.toInt_inj]

theorem magnitude_rootMeanSquare (channel : List Word) :
    magnitude (rootMeanSquare channel) = Real.sqrt ((sumSquares channel : ℝ) / channel.length) := rfl

/-- A root mean square of a buffer is 2^-12 or more when it is not zero, and at most 2^31. -/
theorem rootMeanSquare_range (hlen : channel.length < 2 ^ 24) (hne : 0 < channel.length)
    (hsum : sumSquares channel ≠ 0) :
    1 ≤ magnitude (rootMeanSquare channel) * 2 ^ 126 ∧ magnitude (rootMeanSquare channel) ≤ 2 ^ 126 := by
  have hne' : (0 : ℝ) < channel.length := by exact_mod_cast hne
  have hlen' : (channel.length : ℝ) ≤ 2 ^ 24 := by exact_mod_cast hlen.le
  have hsum' : (1 : ℝ) ≤ sumSquares channel := by exact_mod_cast Nat.one_le_iff_ne_zero.mpr hsum
  have hle : (sumSquares channel : ℝ) ≤ channel.length * 2 ^ 62 := by exact_mod_cast sumSquares_le channel
  rw [magnitude_rootMeanSquare]
  constructor
  · have hroot : (1 : ℝ) / 2 ^ 12 ≤ Real.sqrt ((sumSquares channel : ℝ) / channel.length) := by
      refine Real.le_sqrt_of_sq_le ?_
      rw [le_div_iff₀ hne']
      linarith
    linarith
  · rw [Real.sqrt_le_left (by positivity), div_le_iff₀ hne']
    linarith

end Channel

/-- What R214 says of one channel's word `d`: within FP_TOL of the root mean square, exact where that is a floating-point
value, not negative, and +0.0 for zeros. -/
def answersRms (par : RunParams) (d : Word) (channel : List Word) : Prop :=
  let rms := realOf (rootMeanSquare channel)
  fpIsFinite d ∧ |fpValue d - rms| ≤ (par.fpTolNum : ℝ) / par.fpTolDen * rms ∧
    (isBinary32 rms → fpValue d = rms) ∧ 0 ≤ fpValue d ∧ ((∀ x ∈ channel, x = 0#32) → d = 0#32)

/-- `fp_round` of the root mean square is the word R214 asks for. -/
theorem fpRound_answersRms {par : RunParams} {channel : List Word} (hlen : channel.length < 2 ^ 24)
    (hne : 0 < channel.length) (htol : 0 < par.fpTolDen) (htol' : par.fpTolDen ≤ par.fpTolNum * 2 ^ 23) :
    answersRms par (fpRound par (rootMeanSquare channel)) channel := by
  have habs : |realOf (rootMeanSquare channel)| = realOf (rootMeanSquare channel) := by
    rw [abs_realOf, realOf_eq_magnitude]
    exact (one_mul _).symm
  have hexact := fun hvalue => (fpRound_exact (x := rootMeanSquare channel) hne par hvalue).2
  have hnonneg := fpRound_nonneg par (x := rootMeanSquare channel) rfl
  by_cases hsum : sumSquares channel = 0
  case pos =>
    have hzero : magnitude (rootMeanSquare channel) = 0 := by rw [magnitude_rootMeanSquare, hsum]; simp
    obtain ⟨hfinite, hval⟩ := fpRound_exact (x := rootMeanSquare channel) hne par (isBinary32_of_zero hzero)
    have hwithin : |fpValue (fpRound par (rootMeanSquare channel)) - realOf (rootMeanSquare channel)| ≤
        (par.fpTolNum : ℝ) / par.fpTolDen * realOf (rootMeanSquare channel) := by
      rw [hval, sub_self, abs_zero, realOf_eq_magnitude, hzero, mul_zero, mul_zero]
    exact ⟨hfinite, hwithin, hexact, hnonneg, fun _ => fpRound_zero hne par hzero⟩
  case neg =>
    obtain ⟨hlow, hhigh⟩ := rootMeanSquare_range hlen hne hsum
    obtain ⟨hfinite, hwithin⟩ := fpRound_within (x := rootMeanSquare channel) hne hlow hhigh htol htol'
    rw [habs] at hwithin
    exact ⟨hfinite, hwithin, hexact, hnonneg, fun hzeros => absurd (sumSquares_eq_zero.mpr hzeros) hsum⟩

end Sys2Proof.Machine

namespace Sys2Proof.Proofs

open Sys2Proof.Machine

/-- Settles O40: the packet by `decodePacket_getRms`, each channel's word by `fpRound_answersRms`. -/
theorem rmsIsRootMeanSquare : Obligations.RmsIsRootMeanSquare := by
  refine ⟨fun samples ws hlen => ?_, fun s samples => ⟨?_, fun hne hlen htol htol' => ?_⟩⟩
  · rw [flatMap_eq_pairWords]
    exact decodePacket_getRms hlen ws
  · rintro rfl
    rfl
  · have hpos := List.length_pos_iff.mpr hne
    have hrms (side : Word × Word → Word) :
        answersRms s.par (fpRound s.par (rootMeanSquare (samples.map side))) (samples.map side) :=
      fpRound_answersRms (by rwa [List.length_map]) (by rwa [List.length_map]) htol htol'
    simp only [answersRms, realOf_rootMeanSquare] at hrms
    exact ⟨_, _, if_neg hpos.ne', hrms Prod.fst, hrms Prod.snd⟩

end Sys2Proof.Proofs
end

section
/-! SUPPORT. What the checks of the two INIT commands ask, in the words of the spec, and which of them an INIT command reports:
the first that fails (R47 to R50, R125, R140, R170, R233, R234). -/

namespace Sys2Proof.Machine

open Sys2Proof.Claims

/-! ## The lifecycle -/

theorem Lifecycle.ne_running {state : Lifecycle} (h : state = .uninit) : state ≠ .running := by
  rw [h]
  decide

/-! ## The clock -/

/-- "Finite and greater than zero", of the number the pattern denotes (R49, R106). -/
theorem finitePositive_iff {p : Word} : finitePositive p = true ↔ fpIsFinite p ∧ 0 < fpValue p := by
  have hvalue : 0 < fpValue p ↔ fpSign p = false ∧ 0 < fpUnits p := by
    rw [fpValue_eq_units]
    cases fpSign p with
    | false => simp
    | true => simpa using (by positivity : (0 : ℝ) ≤ fpUnits p / 2 ^ 149)
  rw [hvalue, ← fpFinite_iff, finitePositive, Bool.and_eq_true, Bool.and_eq_true, Bool.not_eq_true', decide_eq_true_iff,
    and_assoc, and_left_comm]

/-- The clock check fails for a zero clock without an override, or an override that is no positive number (R125). -/
theorem clockLegal_eq_false_iff {ovr clk : Word} : clockLegal ovr clk = false ↔
    ovr = 0#32 ∧ clk = 0#32 ∨ ovr ≠ 0#32 ∧ ¬ (fpIsFinite ovr ∧ 0 < fpValue ovr) := by
  rw [← finitePositive_iff, Bool.not_eq_true, clockLegal]
  by_cases hovr : ovr = 0#32
  · simp [hovr]
  · simp [hovr]

/-! ## Pins -/

/-- A claimed pin is a pin of the arena whose claim is set (R37). -/
theorem pinIsClaimed_iff {s : State} {n : Nat} : pinIsClaimed s n = true ↔ s.pinClaimed[n]? = some true := by
  rw [pinIsClaimed, List.getD_eq_getElem?_getD]
  cases s.pinClaimed[n]? with
  | none => simp
  | some claimed => simp

/-- A pin that has a claim bit is in range (R37). -/
theorem not_nGpio_le {s : State} {n : Nat} {claimed : Bool} (h : s.pinClaimed[n]? = some claimed) : ¬ nGpio s ≤ n :=
  Nat.not_le.mpr (List.getElem?_eq_some_iff.mp h).1

theorem pinsContiguous_eq_false_iff {c : Cfg} : pinsContiguous c = false ↔
    c.audWsPin.toNat ≠ c.audClkPin.toNat + 1 ∨ c.audDataPin.toNat ≠ c.audWsPin.toNat + 1 := by
  rw [pinsContiguous, Bool.and_eq_false_iff, decide_eq_false_iff_not, decide_eq_false_iff_not]

theorem audioPinBusy_iff {s : State} : audioPinBusy s = true ↔
    s.pinClaimed[s.cfg.audClkPin.toNat]? = some true ∨ s.pinClaimed[s.cfg.audWsPin.toNat]? = some true ∨
      s.pinClaimed[s.cfg.audDataPin.toNat]? = some true := by
  simp only [audioPinBusy, Bool.or_eq_true, pinIsClaimed_iff, or_assoc]

/-! ## Rates and widths -/

theorem rateOfNat_eq_none {n : Nat} (h : n ∉ [8000, 16000, 32000, 44100, 48000, 88200, 96000]) : rateOfNat n = none := by
  simp only [List.mem_cons, List.not_mem_nil, or_false, not_or] at h
  obtain ⟨h8, h16, h32, h44, h48, h88, h96⟩ := h
  rw [rateOfNat, if_neg h8, if_neg h16, if_neg h32, if_neg h44, if_neg h48, if_neg h88, if_neg h96]

theorem rateOfNat_isSome : ∀ n ∈ [8000, 16000, 32000, 44100, 48000, 88200, 96000], (rateOfNat n).isSome = true := by decide

theorem widthOfNat_isSome : ∀ n ∈ [16, 24, 32], (widthOfNat n).isSome = true := by decide

/-- A rate and a width of the two closed sets are read as such (R47, R48). -/
theorem exists_rate_width {r b : Nat} (hrate : ¬ r ∉ [8000, 16000, 32000, 44100, 48000, 88200, 96000])
    (hwidth : ¬ b ∉ [16, 24, 32]) : ∃ rate w, rateOfNat r = some rate ∧ widthOfNat b = some w := by
  obtain ⟨rate, hr⟩ := Option.isSome_iff_exists.mp (rateOfNat_isSome r (not_not.mp hrate))
  obtain ⟨w, hw⟩ := Option.isSome_iff_exists.mp (widthOfNat_isSome b (not_not.mp hwidth))
  exact ⟨rate, w, hr, hw⟩

/-! ## The checks of LED_INIT, in the order of R233 -/

section LedInit
variable {s : State}

/-- A failing check is what LED_INIT answers, and all it does (R140, R236). -/
theorem exec_ledInit_of_error {st : Status} (h : ledInitCheck s = .error st) :
    exec .ledInit s = .next (raiseError st s) := by
  change execLedInit s = _
  rw [execLedInit, h]

theorem ledInitCheck_eAlready (h : s.led.state = .running) : ledInitCheck s = .error .eAlready := if_pos h

variable (hstate : s.led.state ≠ .running)
include hstate

theorem ledInitCheck_ePinRange (h : nGpio s ≤ s.cfg.ledPin.toNat) : ledInitCheck s = .error .ePinRange :=
  (if_neg hstate).trans (if_pos h)

variable (hrange : ¬ nGpio s ≤ s.cfg.ledPin.toNat)
include hrange

theorem ledInitCheck_eClock (h : clockLegal s.cfg.ledDivOvr s.cfg.sysClkHz = false) :
    ledInitCheck s = .error .eClock :=
  (if_neg hstate).trans <| (if_neg hrange).trans (if_pos h)

variable (hclock : ¬ clockLegal s.cfg.ledDivOvr s.cfg.sysClkHz = false)
include hclock

theorem ledInitCheck_ePinBusy (h : pinIsClaimed s s.cfg.ledPin.toNat = true) : ledInitCheck s = .error .ePinBusy :=
  (if_neg hstate).trans <| (if_neg hrange).trans <| (if_neg hclock).trans (if_pos h)

theorem ledInitCheck_eNoChan (hfree : ¬ pinIsClaimed s s.cfg.ledPin.toNat = true) (h : freeChannel s = none) :
    ledInitCheck s = .error .eNoChan := by
  rw [ledInitCheck, if_neg hstate, if_neg hrange, if_neg hclock, if_neg hfree, h]

end LedInit

/-! ## The checks of AUD_INIT, in the order of R234 -/

section AudInit
variable {s : State} {rate : SampleRate} {w : SampleWidth}

/-- A failing check is what AUD_INIT answers, and all it does (R170, R236). -/
theorem exec_audInit_of_error {st : Status} (h : audInitCheck s = .error st) :
    exec .audInit s = .next (raiseError st s) := by
  change execAudInit s = _
  rw [execAudInit, h]

theorem audInitCheck_eAlready (h : s.aud.state = .running) : audInitCheck s = .error .eAlready := if_pos h

variable (hstate : s.aud.state ≠ .running)
include hstate

theorem audInitCheck_eRate (h : rateOfNat s.cfg.audRateHz.toNat = none) : audInitCheck s = .error .eRate := by
  rw [audInitCheck, if_neg hstate, h]

variable (hrate : rateOfNat s.cfg.audRateHz.toNat = some rate)
include hrate

theorem audInitCheck_eWidth (h : widthOfNat s.cfg.audBits.toNat = none) : audInitCheck s = .error .eWidth := by
  simp only [audInitCheck, if_neg hstate, hrate, h]

variable (hwidth : widthOfNat s.cfg.audBits.toNat = some w)
include hwidth

theorem audInitCheck_ePins (h : pinsContiguous s.cfg = false) : audInitCheck s = .error .ePins := by
  simp only [audInitCheck, if_neg hstate, hrate, hwidth, if_pos h]

variable (hpins : ¬ pinsContiguous s.cfg = false)
include hpins

theorem audInitCheck_ePinRange (h : nGpio s ≤ s.cfg.audDataPin.toNat) : audInitCheck s = .error .ePinRange := by
  simp only [audInitCheck, if_neg hstate, hrate, hwidth, if_neg hpins, if_pos h]

variable (hrange : ¬ nGpio s ≤ s.cfg.audDataPin.toNat)
include hrange

theorem audInitCheck_eClock (h : clockLegal s.cfg.audDivOvr s.cfg.sysClkHz = false) :
    audInitCheck s = .error .eClock := by
  simp only [audInitCheck, if_neg hstate, hrate, hwidth, if_neg hpins, if_neg hrange, if_pos h]

variable (hclock : ¬ clockLegal s.cfg.audDivOvr s.cfg.sysClkHz = false)
include hclock

theorem audInitCheck_ePinBusy (h : audioPinBusy s = true) : audInitCheck s = .error .ePinBusy := by
  simp only [audInitCheck, if_neg hstate, hrate, hwidth, if_neg hpins, if_neg hrange, if_neg hclock, if_pos h]

theorem audInitCheck_eNoChan (hfree : ¬ audioPinBusy s = true) (h : freeChannel s = none) :
    audInitCheck s = .error .eNoChan := by
  simp only [audInitCheck, if_neg hstate, hrate, hwidth, if_neg hpins, if_neg hrange, if_neg hclock, if_neg hfree, h]

end AudInit

end Sys2Proof.Machine

namespace Sys2Proof.Proofs

open Sys2Proof.Machine

/-- Settles O24: clause by clause the check of R233 that fails, the earlier ones passed. -/
theorem ledInitReportsFirstFailure : Obligations.LedInitReportsFirstFailure := by
  intro s
  refine ⟨fun hrun => ?_, fun huninit hrange => ?_, fun huninit hrange hclock => ?_, fun huninit hclock hbusy => ?_,
    fun huninit hclock hfree hchan => ?_⟩
  · exact exec_ledInit_of_error (ledInitCheck_eAlready hrun)
  · exact exec_ledInit_of_error (ledInitCheck_ePinRange (Lifecycle.ne_running huninit) hrange)
  · exact exec_ledInit_of_error (ledInitCheck_eClock (Lifecycle.ne_running huninit) (Nat.not_le.mpr hrange)
      (clockLegal_eq_false_iff.mpr hclock))
  · exact exec_ledInit_of_error (ledInitCheck_ePinBusy (Lifecycle.ne_running huninit) (not_nGpio_le hbusy)
      (clockLegal_eq_false_iff.not.mpr hclock) (pinIsClaimed_iff.mpr hbusy))
  · have hpin : ¬ pinIsClaimed s s.cfg.ledPin.toNat = true := by
      rw [pinIsClaimed_iff, hfree]
      decide
    exact exec_ledInit_of_error (ledInitCheck_eNoChan (Lifecycle.ne_running huninit) (not_nGpio_le hfree)
      (clockLegal_eq_false_iff.not.mpr hclock) hpin (freeChannel_eq_none.mpr hchan))

/-- Settles O30: clause by clause the check of R234 that fails, the earlier ones passed. -/
theorem audInitReportsFirstFailure : Obligations.AudInitReportsFirstFailure := by
  intro s
  refine ⟨fun hrun => ?_, fun huninit hrate => ?_, fun huninit hrate hwidth => ?_, fun huninit hrate hwidth hpins => ?_,
    fun huninit hrate hwidth hpins hrange => ?_, fun huninit hrate hwidth hpins hrange hclock => ?_,
    fun huninit hrate hwidth hpins hrange hclock hbusy => ?_,
    fun huninit hrate hwidth hpins hrange hclock hfree hchan => ?_⟩
  · exact exec_audInit_of_error (audInitCheck_eAlready hrun)
  · exact exec_audInit_of_error (audInitCheck_eRate (Lifecycle.ne_running huninit) (rateOfNat_eq_none hrate))
  · obtain ⟨rate, hrate⟩ := Option.isSome_iff_exists.mp (rateOfNat_isSome _ (not_not.mp hrate))
    exact exec_audInit_of_error (audInitCheck_eWidth (Lifecycle.ne_running huninit) hrate (widthOfNat_eq_none hwidth))
  · obtain ⟨rate, w, hrate, hwidth⟩ := exists_rate_width hrate hwidth
    exact exec_audInit_of_error (audInitCheck_ePins (Lifecycle.ne_running huninit) hrate hwidth
      (pinsContiguous_eq_false_iff.mpr hpins))
  · obtain ⟨rate, w, hrate, hwidth⟩ := exists_rate_width hrate hwidth
    exact exec_audInit_of_error (audInitCheck_ePinRange (Lifecycle.ne_running huninit) hrate hwidth
      (pinsContiguous_eq_false_iff.not.mpr hpins) hrange)
  · obtain ⟨rate, w, hrate, hwidth⟩ := exists_rate_width hrate hwidth
    exact exec_audInit_of_error (audInitCheck_eClock (Lifecycle.ne_running huninit) hrate hwidth
      (pinsContiguous_eq_false_iff.not.mpr hpins) hrange (clockLegal_eq_false_iff.mpr hclock))
  · obtain ⟨rate, w, hrate, hwidth⟩ := exists_rate_width hrate hwidth
    exact exec_audInit_of_error (audInitCheck_ePinBusy (Lifecycle.ne_running huninit) hrate hwidth
      (pinsContiguous_eq_false_iff.not.mpr hpins) hrange (clockLegal_eq_false_iff.not.mpr hclock)
      (audioPinBusy_iff.mpr hbusy))
  · obtain ⟨rate, w, hrate, hwidth⟩ := exists_rate_width hrate hwidth
    exact exec_audInit_of_error (audInitCheck_eNoChan (Lifecycle.ne_running huninit) hrate hwidth
      (pinsContiguous_eq_false_iff.not.mpr hpins) hrange (clockLegal_eq_false_iff.not.mpr hclock)
      (audioPinBusy_iff.not.mpr hfree) (freeChannel_eq_none.mpr hchan))

end Sys2Proof.Proofs
end

section
/-! SUPPORT. A command that ends in an error status: the answer is all its host step does, and it is the first step of the
command (R15, R94, R236, R246). -/

namespace Sys2Proof.Machine

open Sys2Proof.Claims

/-! ## One host step of a command, by its answer -/

/-- What `i` makes of `s` when it never fails half done: an error entry that finds `i` not pending, an answer OK, or no
answer (R15, R236). -/
inductive FailsFirst (i : Instr) (s : State) : Result → Prop where
  | raises {st : Status} (hfirst : ¬ pendingOk s i) : FailsFirst i s (.next (raiseError st s))
  | answersOk {t : State} {data : List Word} (hp : t.port = s.port) : FailsFirst i s (.next (respond .ok data t))
  | silent {t : State} (hresp : t.port.responses = s.port.responses) : FailsFirst i s (.next t)

section FailsFirst
variable {i : Instr} {s t : State} {st : Status} {data : List Word}

/-- An answer of such a step that is not OK is an error entry. -/
theorem FailsFirst.eq_raiseError (h : FailsFirst i s (.next t))
    (hanswer : t.port.responses = s.port.responses ++ [⟨st, data⟩]) (hst : st ≠ .ok) :
    data = [] ∧ t = raiseError st s ∧ ¬ pendingOk s i := by
  cases h with
  | raises hfirst =>
    cases List.append_cancel_left hanswer
    exact ⟨rfl, rfl, hfirst⟩
  | answersOk hp =>
    rw [respond_responses, hp] at hanswer
    cases List.append_cancel_left hanswer
    exact absurd rfl hst
  | silent hresp => exact absurd (List.self_eq_append_right.mp (hresp.symm.trans hanswer)) (List.cons_ne_nil _ _)

/-- A driver's command: E_NOTINIT unless the driver is RUNNING, which it is while the command is pending (R231). -/
theorem FailsFirst.of_running {state : Lifecycle} {r : Result} (hpend : pendingOk s i → state = .running)
    (h : FailsFirst i s r) : FailsFirst i s (if state ≠ .running then .next (raiseError .eNotInit s) else r) := by
  split
  next hstate => exact .raises fun hok => hstate (hpend hok)
  next => exact h

end FailsFirst

section Commands
variable {s : State}

theorem execCfgWr_failsFirst (idx : BitVec 8) (value : Word) :
    FailsFirst (.cfgWr idx value) s (execCfgWr idx value s) := by
  unfold execCfgWr
  split
  · exact .answersOk rfl
  · exact .raises id

theorem execDivCalc_failsFirst (cycles : BitVec 24) (sysClk symFreq : Word) :
    FailsFirst (.divCalc cycles sysClk symFreq) s (execDivCalc cycles sysClk symFreq s) := by
  unfold execDivCalc
  split
  · exact .answersOk rfl
  · exact .answersOk rfl

theorem execLedInit_failsFirst : FailsFirst .ledInit s (execLedInit s) := by
  unfold execLedInit
  split
  · exact .raises id
  · exact .answersOk rfl

theorem execAudInit_failsFirst : FailsFirst .audInit s (execAudInit s) := by
  unfold execAudInit
  split
  · exact .raises id
  · exact .answersOk rfl

/-- SET_COLOR and SET_RGB. -/
theorem pushPixel_failsFirst {i : Instr} (rgb : BitVec 24) (hpend : pendingOk s i → s.led.state = .running) :
    FailsFirst i s (pushPixel i rgb s) := by
  refine .of_running hpend ?_
  split
  · exact .answersOk rfl
  · exact .silent rfl

/-- FILL and CLEAR. -/
theorem fillLine_failsFirst {i : Instr} (word : Word) (hpend : pendingOk s i → s.led.state = .running) :
    FailsFirst i s (fillLine i word s) := by
  refine .of_running hpend ?_
  split
  · exact .answersOk rfl
  · split
    · split
      · exact .answersOk rfl
      · exact .silent rfl
    · exact .silent rfl

theorem execReadStereo_failsFirst : FailsFirst .readStereo s (execReadStereo s) := by
  refine .of_running And.left ?_
  split
  next hframe => exact .answersOk (readFrame_port hframe)
  next => exact .silent rfl

theorem execReadStereoNb_failsFirst : FailsFirst .readStereoNb s (execReadStereoNb s) := by
  refine .of_running False.elim ?_
  split
  next hframe => exact .answersOk (readFrame_port hframe)
  next => exact .raises id

theorem execReadMono_failsFirst : FailsFirst .readMono s (execReadMono s) := by
  refine .of_running And.left ?_
  split
  next hframe => exact .answersOk (readFrame_port hframe)
  next => exact .silent rfl

theorem execReadSamples_failsFirst (n : BitVec 24) : FailsFirst (.readSamples n) s (execReadSamples n s) := by
  refine .of_running And.left ?_
  split
  · exact .answersOk rfl
  · split
    next hframe =>
      split
      · exact .answersOk (readFrame_port hframe)
      · exact .silent (congrArg Port.responses (readFrame_port hframe) :)
    next => exact .silent rfl

theorem execReadSamplesAvail_failsFirst (n : BitVec 24) :
    FailsFirst (.readSamplesAvail n) s (execReadSamplesAvail n s) := by
  refine .of_running And.left ?_
  split
  · exact .answersOk rfl
  · split
    next hframe =>
      split
      · exact .answersOk (readFrame_port hframe)
      · exact .silent (congrArg Port.responses (readFrame_port hframe) :)
    next => exact .answersOk rfl

theorem execSampleToFloat_failsFirst (w : BitVec 8) (x : Word) :
    FailsFirst (.sampleToFloat w x) s (execSampleToFloat w x s) := by
  unfold execSampleToFloat
  split
  · exact .raises id
  · exact .answersOk rfl

theorem execGetRms_failsFirst (samples : List (Word × Word)) :
    FailsFirst (.getRms samples) s (execGetRms samples s) := by
  unfold execGetRms
  split
  · exact .raises id
  · exact .answersOk rfl

end Commands

/-- No command fails half done (R236). -/
theorem exec_failsFirst {i : Instr} (hi : i.isCommand = true) (s : State) : FailsFirst i s (exec i s) := by
  cases i with
  | cfgWr idx value => exact execCfgWr_failsFirst idx value
  | divCalc cycles sysClk symFreq => exact execDivCalc_failsFirst cycles sysClk symFreq
  | ledInit => exact execLedInit_failsFirst
  | setColor rgb => exact pushPixel_failsFirst rgb And.left
  | setRgb r g b => exact pushPixel_failsFirst (rgbOf r g b) And.left
  | fill rgb => exact fillLine_failsFirst (pixelWord rgb) And.left
  | clear => exact fillLine_failsFirst 0#32 And.left
  | audInit => exact execAudInit_failsFirst
  | isReadable => exact .of_running False.elim (.answersOk rfl)
  | readStereo => exact execReadStereo_failsFirst
  | readStereoNb => exact execReadStereoNb_failsFirst
  | readMono => exact execReadMono_failsFirst
  | readSamples n => exact execReadSamples_failsFirst n
  | readSamplesAvail n => exact execReadSamplesAvail_failsFirst n
  | getFifoLevel => exact .of_running False.elim (.answersOk rfl)
  | sampleToMono left right => exact .answersOk rfl
  | sampleToFloat w x => exact execSampleToFloat_failsFirst w x
  | getPeak left right => exact .answersOk rfl
  | getRms samples => exact execGetRms_failsFirst samples
  | _ => cases hi

/-- An instruction that answers another status than OK has only raised the error, and was not pending (R236). -/
theorem exec_eq_raiseError {i : Instr} {s t : State} {st : Status} {data : List Word} (hexec : exec i s = .next t)
    (hanswer : t.port.responses = s.port.responses ++ [⟨st, data⟩]) (hst : st ≠ .ok) :
    data = [] ∧ t = raiseError st s ∧ ¬ pendingOk s i := by
  refine FailsFirst.eq_raiseError ?_ hanswer hst
  cases hi : i.isCommand with
  | true => exact hexec ▸ exec_failsFirst hi s
  | false => exact .silent (congrArg Port.responses (exec_port_of_micro hi hexec))

/-! ## Any step, by its answer -/

/-- A turn's fetch that cannot answer: a micro-operation to run, a turn over with the port as it was, or a stop. -/
inductive LeavesPort (s : State) : Fetched → Prop where
  | run {i : Instr} (hi : i.isCommand = false) : LeavesPort s (.run i s)
  | settled {t : State} (hp : t.port = s.port) : LeavesPort s (.settled t)
  | stop {f : Fault} : LeavesPort s (.stop f)

section Turns
variable {s t : State} {st : Status} {data : List Word}

/-- A channel's step fetches a micro-operation of its program, or stops (R107). -/
theorem fetchMicro_leavesPort {prog : List Micro} {pc : Nat} {mine : Instr → Bool} {outside : Fault}
    (hmine : ∀ i, mine i = true → i.isCommand = false) : LeavesPort s (fetchMicro prog pc mine outside s) := by
  unfold fetchMicro
  split
  · exact .stop
  · split
    · exact .stop
    · split
      next hi => exact .run (hmine _ hi)
      next => exact .stop

/-- The LED channel's turn leaves the port alone (R150, R155). -/
theorem fetchLed_leavesPort : LeavesPort s (fetchLed s) := by
  unfold fetchLed
  split
  · exact .settled rfl
  · split
    · exact .settled rfl
    · exact fetchMicro_leavesPort fun i hi => by rw [Instr.isCommand, hi, Bool.not_true, Bool.false_and]

/-- The audio channel's turn leaves the port alone (R189). -/
theorem fetchAudio_leavesPort : LeavesPort s (fetchAudio s) := by
  unfold fetchAudio
  split
  · exact .settled rfl
  · exact fetchMicro_leavesPort fun i hi => by rw [Instr.isCommand, hi, Bool.not_true, Bool.and_false]

/-- The step of such a turn leaves the port as it was. -/
theorem step_port_of_leavesPort (hturn : LeavesPort (takeTurn s) (fetch s)) (hstep : step s = .next t) :
    t.port = s.port := by
  obtain hover | ⟨i, s', hrun, hexec⟩ := step_eq_next hstep
  · rw [hover] at hturn
    cases hturn with
    | settled hp => exact hp
  · rw [hrun] at hturn
    cases hturn with
    | run hi => exact (exec_port_of_micro hi hexec :)

/-- A step that gives no answer is not one that gives one. -/
theorem not_answered_of_port_eq {p p' : Port} {r : Response} (hp : p' = p) (hanswer : p'.responses = p.responses ++ [r]) :
    False := by
  rw [hp] at hanswer
  exact absurd (List.self_eq_append_right.mp hanswer) (List.cons_ne_nil _ _)

/-- A step that answers another status than OK is the host's, has only raised the error on the port moved past the words
taken, and finds no command pending that could be (R94, R236, R246). -/
theorem step_eq_raiseError (hstep : step s = .next t)
    (hanswer : t.port.responses = s.port.responses ++ [⟨st, data⟩]) (hst : st ≠ .ok) :
    data = [] ∧ (∃ rest, t = raiseError st (consumePacket rest (takeTurn s))) ∧
      ∀ i, s.port.pending = some i → ¬ pendingOk s i := by
  cases hturn : nextAgent s with
  | led =>
    have hfetch : fetch s = fetchLed (takeTurn s) := by rw [fetch, hturn]
    exact (not_answered_of_port_eq (step_port_of_leavesPort (hfetch ▸ fetchLed_leavesPort) hstep) hanswer).elim
  | audio =>
    have hfetch : fetch s = fetchAudio (takeTurn s) := by rw [fetch, hturn]
    exact (not_answered_of_port_eq (step_port_of_leavesPort (hfetch ▸ fetchAudio_leavesPort) hstep) hanswer).elim
  | host =>
    have hhost : fetch s = fetchHost (takeTurn s) := by rw [fetch, hturn]
    rw [step, hhost] at hstep
    obtain ⟨i, hpend, hfetch⟩ | ⟨hidle, ⟨i, rest, -, hfetch⟩ | ⟨rest, -, hfetch⟩ | ⟨-, hfetch⟩⟩ :=
      fetchHost_cases (takeTurn s)
    case inl =>
      rw [hfetch] at hstep
      obtain ⟨hdata, rfl, hfirst⟩ := exec_eq_raiseError hstep hanswer hst
      refine ⟨hdata, ⟨s.port.incoming, rfl⟩, fun j hj => ?_⟩
      cases hpend.symm.trans hj
      exact hfirst
    all_goals
      have hnone : ∀ i, s.port.pending = some i → ¬ pendingOk s i := fun i hi => by cases hidle.symm.trans hi
      rw [hfetch] at hstep
    case inr.inl =>
      obtain ⟨hdata, rfl, -⟩ := exec_eq_raiseError hstep hanswer hst
      exact ⟨hdata, ⟨rest, rfl⟩, hnone⟩
    case inr.inr.inl =>
      cases hstep
      cases List.append_cancel_left hanswer
      exact ⟨rfl, ⟨rest, rfl⟩, hnone⟩
    case inr.inr.inr =>
      cases hstep
      exact (not_answered_of_port_eq rfl hanswer).elim

end Turns

end Sys2Proof.Machine

namespace Sys2Proof.Proofs

open Sys2Proof.Machine Sys2Proof.Claims

/-- Settles O15: a failing step has only raised its error (`exec_eq_raiseError`, `step_eq_raiseError`), and no command that
the port invariant lets pend can fail. -/
theorem failedCommandChangesNothing : Obligations.FailedCommandChangesNothing := by
  refine ⟨fun i s t st data hexec hanswer hst => ?_, fun s t st data hstep hanswer hst => ?_,
    fun s t st data hinv hstep hanswer hst => ?_⟩
  · obtain ⟨hdata, ht, -⟩ := exec_eq_raiseError hexec hanswer hst
    exact ⟨hdata, ht⟩
  · obtain ⟨hdata, ht, -⟩ := step_eq_raiseError hstep hanswer hst
    exact ⟨hdata, ht⟩
  · obtain ⟨-, -, hfirst⟩ := step_eq_raiseError hstep hanswer hst
    have hidle : s.port.pending = none := Option.eq_none_iff_forall_ne_some.mpr fun i hi => hfirst i hi (hinv.pending i hi)
    exact ⟨hidle, hinv.idle hidle⟩

end Sys2Proof.Proofs
end

section
/-! SUPPORT. The two directions of the encoding: words read back from an instruction, and the instruction's words from what
was decoded (R91 to R94, R107). -/

namespace Sys2Proof

open Sys2Proof.Claims

/-! ## From an instruction to its words and back -/

/-- A packet is decoded by the fields of its header (R91). -/
theorem decodePacket_header (op : BitVec 8) (a : BitVec 24) (ws : List Word) :
    decodePacket (header op a :: ws) = decodeBody op a ws := by
  rw [decodePacket_cons, headerOp_header, headerA_header]

/-- A header with a byte in `a[7:0]` and nothing above it takes one argument word (R93). -/
theorem decodeOne_of_byte {mk : BitVec 8 → Word → Instr} (b : BitVec 8) (x : Word) (ws : List Word) :
    (if aHigh (0#16 ++ b : BitVec 24) = 0#16 then decodeOne (mk (aLow (0#16 ++ b : BitVec 24))) (x :: ws)
      else .illegalHeader (x :: ws)) = .instr (mk b x) ws := by
  rw [if_pos (aHigh_zero_append b), aLow_append]
  rfl

/-- The packet of a well-formed command decodes to it and ends where the words after it begin (R92). -/
theorem decodePacket_of_encode {i : Instr} {ws : List Word} (hwf : i.wellFormed = true) (henc : encode i = .packet ws)
    (rest : List Word) : decodePacket (ws ++ rest) = .instr i rest := by
  cases i with
  | cfgWr idx value =>
    cases henc
    exact (decodePacket_header ..).trans (decodeOne_of_byte idx value rest)
  | sampleToFloat w x =>
    cases henc
    exact (decodePacket_header ..).trans (decodeOne_of_byte w x rest)
  | setRgb r g b =>
    cases henc
    refine (decodePacket_header ..).trans ?_
    change PacketResult.instr (.setRgb (aTop (r ++ g ++ b)) (aMid (r ++ g ++ b)) (aLow (r ++ g ++ b))) rest = _
    rw [aTop_append, aMid_append, aLow_append]
  | getRms samples =>
    cases henc
    exact decodePacket_getRms (of_decide_eq_true hwf) rest
  | divCalc | setColor | fill | readSamples | readSamplesAvail | sampleToMono | getPeak =>
    cases henc
    exact decodePacket_header ..
  | ledInit | clear | audInit | isReadable | readStereo | readStereoNb | readMono | getFifoLevel =>
    cases henc
    exact decodePacket_header ..
  | seqNop | seqJump | seqBrz | seqShiftOut | seqSample | seqLoop | seqSetCnt => cases henc

/-- The microword of a micro-operation decodes to it (R107). -/
theorem decodeMicro_of_encode {i : Instr} {w : Micro} (henc : encode i = .micro w) : decodeMicro w = some i := by
  cases i with
  | seqNop | seqJump | seqBrz | seqShiftOut | seqSample | seqLoop | seqSetCnt =>
    cases henc
    simp [decodeMicro]
  | _ => cases henc

/-! ## From words to the instruction and back -/

/-- What `decode` answers for a packet is what the packet decoder reads, with no words left over. -/
theorem decodePacket_of_decode {ws : List Word} {i : Instr} (h : decode (.packet ws) = .ok i) :
    decodePacket ws = .instr i [] := by
  simp only [decode] at h
  split at h
  next hdec => cases h; exact hdec
  all_goals cases h

theorem decodeMicro_of_decode {w : Micro} {i : Instr} (h : decode (.micro w) = .ok i) : decodeMicro w = some i := by
  simp only [decode] at h
  split at h
  next hdec => cases h; exact hdec
  next => cases h

/-- `a` is its three bytes. -/
theorem aTop_append_aMid_aLow (a : BitVec 24) : (aTop a ++ aMid a ++ aLow a : BitVec 24) = a := by
  have hhigh : (aTop a ++ aMid a : BitVec 16) = aHigh a :=
    BitVec.extractLsb'_append_extractLsb'_eq_extractLsb' (by rfl)
  rw [hhigh, aHigh_append_aLow]

/-- A microword is its four fields (R107). -/
theorem micro_fields (w : Micro) : micro (microKind w) (microSide w) (microDelay w) (microOperand w) = w := by
  have hkind : (microKind w ++ microSide w : BitVec 5) = w.extractLsb' 11 5 :=
    BitVec.extractLsb'_append_extractLsb'_eq_extractLsb' (by rfl)
  have hdelay : (w.extractLsb' 11 5 ++ microDelay w : BitVec 8) = w.extractLsb' 8 8 :=
    BitVec.extractLsb'_append_extractLsb'_eq_extractLsb' (by rfl)
  rw [micro, hkind, hdelay]
  exact BitVec.extractLsb'_append_extractLsb' (w := 8) (len := 8)

/-- Whatever command `r` is, it is well-formed and its packet is the header of `op` and `a` with the words of `ws` taken. -/
def TakesPacket (op : BitVec 8) (a : BitVec 24) (ws : List Word) (r : PacketResult) : Prop :=
  ∀ i rest, r = .instr i rest →
    i.wellFormed = true ∧ ∃ args, encode i = .packet (header op a :: args) ∧ ws = args ++ rest

section TakesPacket
variable {op op' : BitVec 8} {a : BitVec 24} {ws : List Word} {i : Instr} {taken after : PacketResult}

theorem TakesPacket.illegalHeader : TakesPacket op a ws (.illegalHeader ws) := fun _ _ h => by cases h

theorem TakesPacket.noWords (hwf : i.wellFormed = true) (henc : encode i = .packet [header op a]) :
    TakesPacket op a ws (.instr i ws) := by
  intro i' rest h
  cases h
  exact ⟨hwf, [], henc, rfl⟩

theorem TakesPacket.bare (hwf : i.wellFormed = true) (henc : encode i = .packet [header op 0#24]) :
    TakesPacket op a ws (decodeBare i a ws) := by
  unfold decodeBare
  split
  next ha => exact .noWords hwf (ha ▸ henc)
  next => exact .illegalHeader

theorem TakesPacket.oneWord {mk : Word → Instr} (hwf : ∀ x, (mk x).wellFormed = true)
    (henc : ∀ x, encode (mk x) = .packet [header op a, x]) : TakesPacket op a ws (decodeOne mk ws) := by
  intro i rest h
  match ws with
  | x :: _ =>
    cases h
    exact ⟨hwf x, [x], henc x, rfl⟩
  | [] => cases h

theorem TakesPacket.twoWords {mk : Word → Word → Instr} (hwf : ∀ x y, (mk x y).wellFormed = true)
    (henc : ∀ x y, encode (mk x y) = .packet [header op a, x, y]) : TakesPacket op a ws (decodeTwo mk ws) := by
  intro i rest h
  match ws with
  | x :: y :: _ =>
    cases h
    exact ⟨hwf x y, [x, y], henc x y, rfl⟩
  | [_] => cases h
  | [] => cases h

/-- GET_RMS takes the pairs its header counts (R93, R214). -/
theorem TakesPacket.pairs : TakesPacket 0x33#8 a ws (decodePairs a.toNat ws) := by
  intro i rest h
  unfold decodePairs at h
  split at h
  next ps rest' hpairs =>
    cases h
    obtain ⟨hlen, rfl⟩ := takePairs_eq_some hpairs
    refine ⟨decide_eq_true (hlen ▸ a.isLt), pairWords ps, ?_, rfl⟩
    rw [encode, hlen, BitVec.ofNat_toNat, BitVec.setWidth_eq]
  next => cases h

/-- A row is taken when the header has its `op` (R93). -/
theorem TakesPacket.row (htaken : TakesPacket op' a ws taken) (hafter : TakesPacket op a ws after) :
    TakesPacket op a ws (if op = op' then taken else after) := by
  split
  next h => exact h ▸ htaken
  next => exact hafter

/-- A row may ask more of the header, which is illegal otherwise (R94). -/
theorem TakesPacket.guarded {p : Prop} [Decidable p] (htaken : p → TakesPacket op a ws taken) :
    TakesPacket op a ws (if p then taken else .illegalHeader ws) := by
  split
  next h => exact htaken h
  next => exact .illegalHeader

/-- A row whose header carries a byte. -/
theorem TakesPacket.byteWord {mk : BitVec 8 → Word → Instr} (hwf : ∀ b x, (mk b x).wellFormed = true)
    (henc : ∀ b x, encode (mk b x) = .packet [header op (0#16 ++ b), x]) :
    TakesPacket op a ws (if aHigh a = 0#16 then decodeOne (mk (aLow a)) ws else .illegalHeader ws) := by
  refine .guarded fun ha => .oneWord (hwf _) fun x => ?_
  rw [henc, ← ha, aHigh_append_aLow]

/-- A row with two argument words whose `a` is zero. -/
theorem TakesPacket.bareTwoWords {mk : Word → Word → Instr} (hwf : ∀ x y, (mk x y).wellFormed = true)
    (henc : ∀ x y, encode (mk x y) = .packet [header op 0#24, x, y]) :
    TakesPacket op a ws (if a = 0#24 then decodeTwo mk ws else .illegalHeader ws) :=
  .guarded fun ha => .twoWords hwf (ha ▸ henc)

/-- The opcode map, row by row, takes from the words the packet of the command it reads. -/
theorem decodeBody_takesPacket : TakesPacket op a ws (decodeBody op a ws) := by
  have hrgb : encode (.setRgb (aTop a) (aMid a) (aLow a)) = .packet [header 0x12#8 a] := by
    rw [encode, aTop_append_aMid_aLow]
  unfold decodeBody
  exact .row (.byteWord (fun _ _ => rfl) fun _ _ => rfl) <| .row (.twoWords (fun _ _ => rfl) fun _ _ => rfl) <|
    .row (.bare rfl rfl) <| .row (.noWords rfl rfl) <| .row (.noWords rfl hrgb) <| .row (.noWords rfl rfl) <|
    .row (.bare rfl rfl) <| .row (.bare rfl rfl) <| .row (.bare rfl rfl) <| .row (.bare rfl rfl) <|
    .row (.bare rfl rfl) <| .row (.bare rfl rfl) <| .row (.noWords rfl rfl) <| .row (.noWords rfl rfl) <|
    .row (.bare rfl rfl) <| .row (.bareTwoWords (fun _ _ => rfl) fun _ _ => rfl) <|
    .row (.byteWord (fun _ _ => rfl) fun _ _ => rfl) <| .row (.bareTwoWords (fun _ _ => rfl) fun _ _ => rfl) <|
    .row .pairs .illegalHeader

end TakesPacket

/-- A decoded command is well-formed, and its encoding is the words the decoder took (R91 to R94). -/
theorem encode_of_decodePacket {ws rest : List Word} {i : Instr} (h : decodePacket ws = .instr i rest) :
    i.wellFormed = true ∧ ∃ packet, encode i = .packet packet ∧ ws = packet ++ rest := by
  match ws with
  | [] => cases h
  | hd :: ws =>
    obtain ⟨hwf, args, henc, rfl⟩ := decodeBody_takesPacket i rest h
    rw [header_op_a] at henc
    exact ⟨hwf, hd :: args, henc, rfl⟩

/-- A decoded micro-operation's encoding is its microword (R107). -/
theorem encode_of_decodeMicro {w : Micro} {i : Instr} (h : decodeMicro w = some i) : encode i = .micro w := by
  rw [← micro_fields w]
  simp only [decodeMicro] at h
  split_ifs at h
  all_goals
    cases h
    rw [‹microKind w = _›]
    rfl

end Sys2Proof

namespace Sys2Proof.Proofs

/-- Settles O1: a packet by `decodePacket_of_encode`, a microword by `decodeMicro_of_encode`. -/
theorem decodeOfEncode : Obligations.DecodeOfEncode := by
  intro i hwf
  cases henc : encode i with
  | packet ws =>
    have hdec := decodePacket_of_encode hwf henc []
    rw [List.append_nil] at hdec
    simp only [decode, hdec]
  | micro w => simp only [decode, decodeMicro_of_encode henc]

/-- Settles O2: a packet by `encode_of_decodePacket`, a microword by `encode_of_decodeMicro`. -/
theorem encodeOfDecode : Obligations.EncodeOfDecode := by
  intro c i h
  cases c with
  | packet ws =>
    obtain ⟨-, packet, henc, rfl⟩ := encode_of_decodePacket (decodePacket_of_decode h)
    rw [henc, List.append_nil]
  | micro w => exact encode_of_decodeMicro (decodeMicro_of_decode h)

/-- Settles O3. -/
theorem packetEndsBeforeNextWords : Obligations.PacketEndsBeforeNextWords :=
  fun _ _ rest hwf henc => decodePacket_of_encode hwf henc rest

end Sys2Proof.Proofs
end

section
/-! SUPPORT. Which headers and microwords are rejected, the words the spec writes out, and what an instruction placed for the
next step does (R91 to R94, R107; log 2, log 3, log 20). -/

namespace Sys2Proof

open Sys2Proof.Claims

/-! ## Headers a row accepts -/

theorem header_inj {op op' : BitVec 8} {a a' : BitVec 24} (h : header op a = header op' a') : op = op' ∧ a = a' := by
  have hop := congrArg headerOp h
  have ha := congrArg headerA h
  rw [headerOp_header, headerOp_header] at hop
  rw [headerA_header, headerA_header] at ha
  exact ⟨hop, ha⟩

theorem aHigh_append (x : BitVec 16) (y : BitVec 8) : aHigh (x ++ y : BitVec 24) = x :=
  (extract_append_high x y (Nat.le_refl 8)).trans (extract_all x)

section Accepted
variable {op op' : BitVec 8} {a : BitVec 24} {ws : List Word}

/-- A row that reads `op` alone: its commands are never illegal. -/
theorem decodeBody_of_opRow (op' : BitVec 8) (hrow : ∀ a, decodeBody op' a ws ≠ .illegalHeader ws)
    (h : header op a &&& 0xFF000000#32 = header op' 0#24) : decodeBody op a ws ≠ .illegalHeader ws := by
  rw [header_and_opMask] at h
  obtain ⟨rfl, -⟩ := header_inj h
  exact hrow a

/-- A row that asks for `a` = 0. -/
theorem decodeBody_of_bareRow (op' : BitVec 8) (hrow : decodeBody op' 0#24 ws ≠ .illegalHeader ws)
    (h : header op a &&& 0xFFFFFFFF#32 = header op' 0#24) : decodeBody op a ws ≠ .illegalHeader ws := by
  rw [header_and_fullMask] at h
  obtain ⟨rfl, rfl⟩ := header_inj h
  exact hrow

/-- A row that asks for a zero `a[23:8]`. -/
theorem decodeBody_of_byteRow (op' : BitVec 8) (hrow : ∀ a, aHigh a = 0#16 → decodeBody op' a ws ≠ .illegalHeader ws)
    (h : header op a &&& 0xFFFFFF00#32 = header op' 0#24) : decodeBody op a ws ≠ .illegalHeader ws := by
  rw [show 0xFFFFFF00#32 = header 0xFF#8 0xFFFF00#24 from rfl, header_and] at h
  obtain ⟨hop, ha⟩ := header_inj h
  obtain rfl : op = op' := BitVec.and_allOnes.symm.trans hop
  refine hrow a ?_
  rw [← aHigh_append_aLow a, show 0xFFFF00#24 = 0xFFFF#16 ++ 0#8 from rfl, BitVec.and_append] at ha
  calc aHigh a
    _ = aHigh a &&& 0xFFFF#16 := BitVec.and_allOnes.symm
    _ = aHigh ((aHigh a &&& 0xFFFF#16) ++ (aLow a &&& 0#8)) := (aHigh_append _ _).symm
    _ = aHigh 0#24 := congrArg aHigh ha

theorem decodeOne_ne_illegalHeader (mk : Word → Instr) : decodeOne mk ws ≠ .illegalHeader ws := by
  cases ws with
  | nil => exact fun h => nomatch h
  | cons => exact fun h => nomatch h

theorem decodeTwo_ne_illegalHeader (mk : Word → Word → Instr) : decodeTwo mk ws ≠ .illegalHeader ws := by
  match ws with
  | [] | [_] | _ :: _ :: _ => exact fun h => nomatch h

theorem decodePairs_ne_illegalHeader (n : Nat) : decodePairs n ws ≠ .illegalHeader ws := by
  unfold decodePairs
  split
  · exact fun h => nomatch h
  · exact fun h => nomatch h

end Accepted

/-- No header that a row of R93 accepts is illegal. -/
theorem decodeBody_of_row (op : BitVec 8) (a : BitVec 24) (ws : List Word) :
    ∀ row ∈ commandRows, header op a &&& row.2 = row.1 → decodeBody op a ws ≠ .illegalHeader ws := by
  have hbyte {i : BitVec 8 → Word → Instr} (a : BitVec 24) (ha : aHigh a = 0#16) :
      (if aHigh a = 0#16 then decodeOne (i (aLow a)) ws else .illegalHeader ws) ≠ .illegalHeader ws := by
    rw [if_pos ha]
    exact decodeOne_ne_illegalHeader _
  have hinstr {i : Instr} : PacketResult.instr i ws ≠ .illegalHeader ws := nofun
  simp only [commandRows, List.forall_mem_cons]
  exact ⟨decodeBody_of_byteRow 0x01#8 hbyte, decodeBody_of_opRow 0x02#8 fun _ => decodeTwo_ne_illegalHeader _,
    decodeBody_of_bareRow 0x10#8 hinstr, decodeBody_of_opRow 0x11#8 fun _ => hinstr,
    decodeBody_of_opRow 0x12#8 fun _ => hinstr, decodeBody_of_opRow 0x13#8 fun _ => hinstr,
    decodeBody_of_bareRow 0x14#8 hinstr, decodeBody_of_bareRow 0x20#8 hinstr, decodeBody_of_bareRow 0x21#8 hinstr,
    decodeBody_of_bareRow 0x22#8 hinstr, decodeBody_of_bareRow 0x23#8 hinstr, decodeBody_of_bareRow 0x24#8 hinstr,
    decodeBody_of_opRow 0x25#8 fun _ => hinstr, decodeBody_of_opRow 0x26#8 fun _ => hinstr,
    decodeBody_of_bareRow 0x27#8 hinstr, decodeBody_of_bareRow 0x30#8 (decodeTwo_ne_illegalHeader _),
    decodeBody_of_byteRow 0x31#8 hbyte, decodeBody_of_bareRow 0x32#8 (decodeTwo_ne_illegalHeader _),
    decodeBody_of_opRow 0x33#8 fun a => decodePairs_ne_illegalHeader a.toNat, nofun⟩

theorem noRow_of_decodePacket {h : Word} {ws : List Word} (hdec : decodePacket (h :: ws) = .illegalHeader ws) :
    noRow h := fun row hrow haccept => by
  rw [← header_op_a h] at haccept
  exact decodeBody_of_row _ _ _ row hrow haccept hdec

/-! ## Microwords -/

theorem microKind_toNat (w : Micro) : (microKind w).toNat = w.toNat / 2 ^ 13 := by
  have hlt := w.isLt
  rw [microKind, BitVec.extractLsb'_toNat, Nat.shiftRight_eq_div_pow]
  omega

/-- Kind 7 alone is no micro-operation (R107). -/
theorem decodeMicro_eq_none_iff (w : Micro) : decodeMicro w = none ↔ microKind w = 7#3 := by
  have hkinds : ∀ k : BitVec 3, k = 7#3 ↔ ¬ (k = 0#3 ∨ k = 1#3 ∨ k = 2#3 ∨ k = 3#3 ∨ k = 4#3 ∨ k = 5#3 ∨ k = 6#3) := by
    decide
  rw [hkinds]
  simp only [decodeMicro]
  split_ifs
  all_goals simp_all

theorem decode_micro_eq_reservedKind_iff (w : Micro) :
    decode (.micro w) = .error .reservedKind ↔ decodeMicro w = none := by
  simp only [decode]
  cases decodeMicro w with
  | none => simp
  | some i => simp

end Sys2Proof

namespace Sys2Proof.Proofs

/-- Settles O4: a row that accepts a header excludes that it is illegal (`decodeBody_of_row`), and the other way round
(`decodePacket_of_noRow`); a microword is rejected for its kind (`decodeMicro_eq_none_iff`). -/
theorem rejectedExactlyOutsideTheTable : Obligations.RejectedExactlyOutsideTheTable := by
  refine ⟨fun h ws => ⟨noRow_of_decodePacket, fun hrow => decodePacket_of_noRow hrow ws⟩, fun w => ?_⟩
  have hlt := w.isLt
  rw [decode_micro_eq_reservedKind_iff, decodeMicro_eq_none_iff, ← BitVec.toNat_inj, microKind_toNat]
  change _ = 7 ↔ _
  omega

/-- Settles O5. -/
theorem publishedWordsDecode : Obligations.PublishedWordsDecode := by
  unfold Obligations.PublishedWordsDecode
  decide

end Sys2Proof.Proofs
end

section
/-! SUPPORT. An instruction placed for the next step: the packet or the microword that `withFetchWord` puts where the next
turn fetches it, and that turn (log 2, log 3, log 20). -/

namespace Sys2Proof.Machine

open Sys2Proof.Claims

/-! ## The table with a microword stored -/

section StoreMicro
variable (prog : List Micro) (w : Micro)

theorem storeMicro_front_length (i : Nat) :
    (prog.take i ++ List.replicate (i - prog.length) 0#16).length = i := by
  rw [List.length_append, List.length_take, List.length_replicate]
  omega

/-- The microword stored stands at its index. -/
theorem storeMicro_getElem?_self (i : Nat) : (storeMicro prog i w)[i]? = some w := by
  have hlen := storeMicro_front_length prog i
  rw [storeMicro, List.getElem?_append_right hlen.le, hlen, Nat.sub_self]
  rfl

/-- Every other microword of the table stays. -/
theorem storeMicro_getElem?_of_ne {i k : Nat} (hk : k < prog.length) (hne : k ≠ i) :
    (storeMicro prog i w)[k]? = prog[k]? := by
  have hlen := storeMicro_front_length prog i
  obtain hlt | hgt := Nat.lt_or_gt_of_ne hne
  · rw [storeMicro, List.getElem?_append_left (by omega),
      List.getElem?_append_left (by rw [List.length_take]; omega), List.getElem?_take_of_lt hlt]
  · obtain ⟨j, rfl⟩ := Nat.exists_eq_add_of_lt hgt
    rw [storeMicro, List.getElem?_append_right (by omega), hlen, show i + j + 1 - i = j + 1 by omega,
      List.getElem?_cons_succ, List.getElem?_drop, Nat.add_right_comm]

end StoreMicro

/-! ## The step after the placing -/

/-- A microword is placed in the channel whose kinds it has (R107). -/
theorem isAudioMicro_of_decodeMicro {w : Micro} {i : Instr} (h : decodeMicro w = some i) :
    isAudioMicro w = i.isAudioStep := by
  have henc := encode_of_decodeMicro h
  cases i with
  | seqNop | seqJump | seqBrz | seqShiftOut | seqSample | seqLoop | seqSetCnt =>
    cases henc
    rw [isAudioMicro, microKind_micro]
    rfl
  | _ => cases henc

/-- The table decoder reads what the code decoder does. -/
theorem decode_of_decodeTableWord {nbits w : Nat} {i : Instr} (h : decodeTableWord nbits w = some i) :
    decode (tableCode nbits w) = .ok i := by
  unfold decodeTableWord at h
  split at h
  next hdec => cases h; exact hdec
  next => cases h

section Placed
variable {i : Instr} (s : State)

/-- A packet placed at the port is the next step's command, and the words behind it stay. -/
theorem step_placePacket {ws : List Word} (hdec : decodePacket ws = .instr i []) :
    step (placePacket ws s) =
      exec i { s with port := { s.port with pending := none, idx := 0, emitted := [] }, env := oneTurn s.env } := by
  obtain ⟨hwf, packet, henc, rfl⟩ := encode_of_decodePacket hdec
  rw [List.append_nil]
  exact step_of_instr ⟨rfl, rfl, rfl⟩ (decodePacket_of_encode hwf henc s.port.incoming)

/-- A microword placed in the LED channel is its next step. -/
theorem step_placeLedMicro {w : Micro} (hdec : decodeMicro w = some i) (hi : i.isLedStep = true) :
    step (placeLedMicro w s) = exec i { s with
      led := { s.led with state := .running, dly := 0, prog := storeMicro s.led.prog s.led.pc w },
      env := oneTurn s.env } := by
  refine step_led_eq_exec (s := placeLedMicro w s) rfl rfl rfl ?_ hi
  exact (congrArg (·.bind decodeMicro) (storeMicro_getElem?_self s.led.prog w s.led.pc)).trans hdec

/-- A microword placed in the audio channel is its next step. -/
theorem step_placeAudioMicro {w : Micro} (hdec : decodeMicro w = some i) (hi : i.isAudioStep = true) :
    step (placeAudioMicro w s) = exec i { s with
      aud := { s.aud with state := .running, prog := storeMicro s.aud.prog s.aud.pc w }, env := oneTurn s.env } := by
  refine step_audio_eq_exec (s := placeAudioMicro w s) rfl rfl ?_ hi
  exact (congrArg (·.bind decodeMicro) (storeMicro_getElem?_self s.aud.prog w s.aud.pc)).trans hdec

end Placed

theorem isAudioStep_of_isLedStep {i : Instr} (h : i.isLedStep = true) : i.isAudioStep = false := by
  cases i with
  | seqNop | seqJump | seqBrz | seqShiftOut => rfl
  | _ => cases h

/-- A row of 16 bits is placed as a microword, in the channel its kind belongs to. -/
theorem withFetchWord_micro {nbits w : Nat} {i : Instr} (h : decodeTableWord nbits w = some i) (hbits : nbits ≤ 16)
    (s : State) : decodeMicro (BitVec.ofNat 16 w) = some i ∧ s.withFetchWord nbits w =
      if i.isAudioStep then placeAudioMicro (BitVec.ofNat 16 w) s else placeLedMicro (BitVec.ofNat 16 w) s := by
  have hdec := decode_of_decodeTableWord h
  have hcode : tableCode nbits w = .micro (BitVec.ofNat 16 w) := if_pos hbits
  rw [hcode] at hdec
  have hmicro := decodeMicro_of_decode hdec
  exact ⟨hmicro, by rw [State.withFetchWord, hcode, placeCode, isAudioMicro_of_decodeMicro hmicro]⟩

/-- A wider row is placed as a packet. -/
theorem withFetchWord_packet {nbits w : Nat} {i : Instr} (h : decodeTableWord nbits w = some i) (hbits : 16 < nbits)
    (s : State) : decodePacket (tablePacket w) = .instr i [] ∧
      s.withFetchWord nbits w = placePacket (tablePacket w) s := by
  have hdec := decode_of_decodeTableWord h
  have hcode : tableCode nbits w = .packet (tablePacket w) := if_neg (Nat.not_le.mpr hbits)
  rw [hcode] at hdec
  exact ⟨decodePacket_of_decode hdec, by rw [State.withFetchWord, hcode]; rfl⟩

end Sys2Proof.Machine

namespace Sys2Proof.Proofs

open Sys2Proof.Machine Sys2Proof.Claims

/-- Settles O8: one lemma per place, `step_placePacket`, `step_placeLedMicro` and `step_placeAudioMicro`. -/
theorem placedWordRunsNext : Obligations.PlacedWordRunsNext := by
  intro s nbits w i h
  refine ⟨fun hbits => ?packet, fun hbits hi => ?led, fun hbits hi => ?audio⟩
  case packet =>
    obtain ⟨hdec, hplace⟩ := withFetchWord_packet h hbits s
    rw [hplace]
    exact step_placePacket s hdec
  case led =>
    obtain ⟨hdec, hplace⟩ := withFetchWord_micro h hbits s
    rw [hplace, isAudioStep_of_isLedStep hi]
    exact ⟨_, storeMicro_getElem?_self _ _ _, fun _ => storeMicro_getElem?_of_ne _ _, step_placeLedMicro s hdec hi⟩
  case audio =>
    obtain ⟨hdec, hplace⟩ := withFetchWord_micro h hbits s
    rw [hplace, hi]
    exact ⟨_, storeMicro_getElem?_self _ _ _, fun _ => storeMicro_getElem?_of_ne _ _, step_placeAudioMicro s hdec hi⟩

end Sys2Proof.Proofs
end

section
/-! SUPPORT. The micro-operations with every operand, whatever the state: what each does to its own channel (R16, R107, R151
to R154, R191 to R198; log 11). -/

namespace Sys2Proof.Machine

open Sys2Proof.Claims

/-! ## LED -/

/-- No bit is coming exactly when the register is exhausted and the queue empty (R151). -/
theorem comingBit_eq_none_iff {l : LedState} : comingBit l = none ↔ l.osrCnt = 24 ∧ l.txq = [] := by
  by_cases hcnt : l.osrCnt = 24
  · simp [comingBit, hcnt]
  · simp [comingBit, hcnt]

/-! ## Audio -/

/-- A bit shifted into the register, as R198 writes it. -/
theorem shiftConcat_eq_or (isr : Word) (bit : Bool) :
    isr.shiftConcat bit = (isr <<< 1) ||| (if bit then 1#32 else 0#32) := by
  apply BitVec.eq_of_getLsbD_eq
  intro k hk
  rw [BitVec.getLsbD_shiftConcat, BitVec.getLsbD_or, BitVec.getLsbD_shiftLeft]
  cases k with
  | zero => cases bit <;> rfl
  | succ k => cases bit <;> simp [hk]

/-- The level drawn, as the head of the listed ones or a free value (R199). -/
theorem dataLevel_eq (s : State) : dataLevel s = (s.env.dataIn.head?).getD (Config.dataBit s.env.bitDraws) := by
  unfold dataLevel
  split
  next h => rw [h]; rfl
  next h => rw [h]; rfl

section Sample
variable (side : BitVec 2) (delay : BitVec 3) (operand : BitVec 8) {s : State}

/-- SAMPLE with the push due and the queue full: the stall, which drives the side-band only (R198, R202). -/
theorem exec_seqSample_stalls (hlast : s.aud.isrCnt = s.aud.w.bits - 1) (hfull : s.aud.rxq.length = 8) :
    exec (.seqSample side delay operand) s = .next (driveAudio side s) := by
  change execSeqSample side s = _
  have hstall : sample (driveAudio side s) = none := sample_eq_none.mpr ⟨hlast, hfull⟩
  simp only [execSeqSample, hstall]

/-- SAMPLE of another bit than the W-th: the side-band, one bit into the register, the next step (R198). -/
theorem exec_seqSample_takes (h : s.aud.isrCnt ≠ s.aud.w.bits - 1) :
    exec (.seqSample side delay operand) s = .next { s with
      aud := { s.aud with
        bclk := some (side.getLsbD 0), ws := some (side.getLsbD 1),
        isr := s.aud.isr.shiftConcat (dataLevel s), isrCnt := s.aud.isrCnt + 1, pc := nextIndex s.aud.prog s.aud.pc },
      env := bitDrawn s.env } := by
  change execSeqSample side s = _
  have hwidth := two_le_bits s.aud.w
  have hnone : sample (driveAudio side s) ≠ none := fun hn => h (sample_eq_none.mp hn).1
  obtain ⟨t, ht⟩ := Option.ne_none_iff_exists'.mp hnone
  obtain ⟨-, rfl⟩ | ⟨hlast, -⟩ := sample_eq_some ht
  · simp only [execSeqSample, ht]
    rfl
  · exact absurd (show s.aud.isrCnt + 1 = s.aud.w.bits from hlast) (by omega)

end Sample

end Sys2Proof.Machine

namespace Sys2Proof.Proofs

open Sys2Proof.Machine Sys2Proof.Claims

/-- Settles O41: SHIFT_OUT sends from the register or from the queue, or stalls. -/
theorem shiftOutSendsNextBit : Obligations.ShiftOutSendsNextBit := by
  intro s side delay count
  refine ⟨fun hcnt => ?_, fun word rest hcnt hq => ?_, exec_seqShiftOut_stalls side delay count⟩
  · rw [exec_seqShiftOut_of_comingBit side delay count (comingBit_of_register hcnt), shiftedOut_of_register hcnt]
    rfl
  · rw [exec_seqShiftOut_of_comingBit side delay count (comingBit_of_queue hcnt hq), shiftedOut_of_queue hcnt hq]
    rfl

/-- Settles O42. -/
theorem ledBranchesGoWhereTheySay : Obligations.LedBranchesGoWhereTheySay := by
  intro s side delay operand
  refine ⟨exec_seqNop .., exec_seqJump .., fun hbit => ?_, fun hbit => ?_⟩
  · rw [exec_seqBrz, hbit]
    rfl
  · rw [exec_seqBrz, hbit]
    rfl

/-- Settles O47: SAMPLE stalls, takes the W-th bit and pushes, or takes another. -/
theorem sampleTakesOneBit : Obligations.SampleTakesOneBit := by
  intro s side delay count bit drawn isr
  have hwidth := two_le_bits s.aud.w
  have hisr : isr = s.aud.isr.shiftConcat (dataLevel s) := by rw [shiftConcat_eq_or, dataLevel_eq]
  rw [hisr]
  exact ⟨exec_seqSample_stalls side delay count,
    fun hlast hroom => exec_seqSample_pushes side delay count (by omega) hroom, exec_seqSample_takes side delay count⟩

/-- Settles O48. -/
theorem loopCountsDown : Obligations.LoopCountsDown := by
  intro s side delay operand
  refine ⟨exec_seqLoop_back side delay operand, fun hcnt => ?_, exec_seqSetCnt side delay operand s⟩
  rw [exec_seqLoop_out side delay operand hcnt]
  simp only [hcnt]
  rfl

end Sys2Proof.Proofs
end

section
/-! SUPPORT. Turns of the three agents, those nobody can use among them, and the state after reset (R51, R245, R260). -/

namespace Sys2Proof.Machine

open Sys2Proof.Claims

/-! ## Turns -/

section Turns
variable {s : State}

/-- The host's turn goes on with the pending command (R38, R246). -/
theorem step_of_pending {i : Instr} (hturn : nextAgent s = .host) (hpend : s.port.pending = some i) :
    step s = exec i { s with env := turnTaken s.env } := by
  have hfetch : fetchHost (takeTurn s) = .run i (takeTurn s) := by
    simp only [fetchHost, show (takeTurn s).port.pending = some i from hpend]
  simp only [step, fetch, hturn, hfetch]
  rfl

/-- An IDLE port waits for the words that are missing (R281; log 15, log 16). -/
theorem step_of_incomplete (hturn : nextAgent s = .host) (hidle : s.port.pending = none)
    (hdec : decodePacket s.port.incoming = .incomplete) : step s = .next { s with env := turnTaken s.env } := by
  have hfetch : fetchHost (takeTurn s) = .settled (takeTurn s) := by
    simp only [fetchHost, show (takeTurn s).port.pending = none from hidle,
      show decodePacket (takeTurn s).port.incoming = .incomplete from hdec]
  simp only [step, fetch, hturn, hfetch]
  rfl

/-- The turn of an UNINIT LED channel passes (R245; log 15). -/
theorem step_led_of_uninit (hturn : nextAgent s = .led) (huninit : s.led.state = .uninit) :
    step s = .next { s with env := turnTaken s.env } := by
  have hfetch : fetchLed (takeTurn s) = .settled (takeTurn s) := if_pos (Lifecycle.ne_running huninit)
  simp only [step, fetch, hturn, hfetch]
  rfl

/-- The turn of an UNINIT audio channel passes (R245; log 15). -/
theorem step_audio_of_uninit (hturn : nextAgent s = .audio) (huninit : s.aud.state = .uninit) :
    step s = .next { s with env := turnTaken s.env } := by
  have hfetch : fetchAudio (takeTurn s) = .settled (takeTurn s) := if_pos (Lifecycle.ne_running huninit)
  simp only [step, fetch, hturn, hfetch]
  rfl

end Turns

/-! ## Reset -/

theorem drivenLevel_of_uninit {s : State} (hled : s.led.state = .uninit) (haud : s.aud.state = .uninit) (n : Nat) :
    drivenLevel s n = none := by
  have hled := Lifecycle.ne_running hled
  have haud := Lifecycle.ne_running haud
  simp only [drivenLevel, hled, haud, false_and, if_false]

section Reset
variable (par : RunParams) (nChannels nGpio ext : Nat) (extPins : List Nat)

theorem ledInv_reset : LedInv (State.resetWith par nChannels nGpio ext extPins) where
  program := rfl
  depth := Nat.zero_le _
  count := le_rfl
  index := Nat.succ_pos _
  delay := Nat.zero_le _
  shifted := fun h => absurd rfl h
  oneTail := nofun
  zeroTail := nofun
  undriven := fun _ => ⟨rfl, rfl⟩
  driven := nofun

theorem audioInv_reset : AudioInv (State.resetWith par nChannels nGpio ext extPins) where
  program := rfl
  depth := Nat.zero_le _
  index := Nat.succ_pos _
  undriven := fun _ => ⟨rfl, rfl, rfl⟩
  phase := nofun

theorem arenaInv_reset : ArenaInv (State.resetWith par nChannels nGpio ext extPins) where
  ledClaims := nofun
  audioChannel := nofun
  audioPins := nofun
  contiguous := nofun
  apart := nofun

theorem portInv_reset : PortInv (State.resetWith par nChannels nGpio ext extPins) where
  idle := fun _ => ⟨rfl, rfl⟩
  pending := nofun

end Reset

end Sys2Proof.Machine

namespace Sys2Proof.Proofs

open Sys2Proof.Machine Sys2Proof.Claims

/-- Settles O6. -/
theorem hostTurnRunsCommand : Obligations.HostTurnRunsCommand :=
  ⟨fun _ _ _ hturn hidle hdec => step_of_instr ⟨hturn, hidle, rfl⟩ hdec, fun _ _ => step_of_pending⟩

/-- Settles O7. -/
theorem channelTurnRunsStep : Obligations.ChannelTurnRunsStep := by
  refine ⟨fun s w i hturn hrun hdly hw hdec => step_led_eq_exec hturn hrun hdly ?_,
    fun s w i hturn hrun hw hdec => step_audio_eq_exec hturn hrun ?_⟩
  · rw [hw, Option.bind_some, hdec]
  · rw [hw, Option.bind_some, hdec]

/-- Settles O11. -/
theorem disabledTurnChangesNothing : Obligations.DisabledTurnChangesNothing := by
  rintro s (⟨hturn, huninit⟩ | ⟨hturn, huninit⟩ | ⟨hturn, hidle, hdec⟩)
  · exact step_led_of_uninit hturn huninit
  · exact step_audio_of_uninit hturn huninit
  · exact step_of_incomplete hturn hidle hdec

/-- Settles O12: ten zero registers, the two claim lists as they were made, and the fields one by one. -/
theorem resetValues : Obligations.ResetValues := by
  intro par nChannels nGpio ext extPins s
  have hregs : ∀ idx : BitVec 8, idx.toNat ≤ 9 → readCfg s.cfg idx = some 0#32 := fun idx hidx => by
    rw [readCfg_eq_getElem?]
    exact List.getElem?_replicate_of_lt (n := 10) (Nat.lt_succ_of_le hidx)
  refine ⟨hregs, by simp [s, State.resetWith], fun i hi => ?_, by simp [s, State.resetWith], fun n hn => ?_, rfl, rfl, rfl,
    rfl, rfl, rfl, rfl, rfl, rfl, rfl, rfl, rfl, rfl, rfl, rfl, rfl⟩
  · simp [s, State.resetWith, hi]
  · simp [s, State.resetWith, hn]

/-- Settles O13: both channels are UNINIT and no word waits at the port. -/
theorem resetIsAtRest : Obligations.ResetIsAtRest := by
  intro par nChannels nGpio ext extPins a s
  refine ⟨?_, drivenLevel_of_uninit rfl rfl⟩
  cases a with
  | host => exact step_of_incomplete (s := grantTurn .host s) rfl rfl rfl
  | led => exact step_led_of_uninit (s := grantTurn .led s) rfl rfl
  | audio => exact step_audio_of_uninit (s := grantTurn .audio s) rfl rfl

/-- Settles O52. -/
theorem resetMeetsInvariant : Obligations.ResetMeetsInvariant := fun _ _ _ _ _ =>
  ⟨ledInv_reset .., audioInv_reset .., arenaInv_reset .., portInv_reset ..⟩

end Sys2Proof.Proofs
end

section
/-! SUPPORT. What a step can do to the two drivers and the claims, said once: a command pushes, pops or commits an INIT, a
channel's turn moves that channel, and all else is the configuration, the port or the inputs (R16, R243 to R246). -/

namespace Sys2Proof.Machine

open Sys2Proof.Claims

/-! ## The moves -/

/-- `t` is `s` but for the configuration, the port and the inputs: the drivers, the claims and the parameters are the
same. -/
def SameDrivers (s t : State) : Prop := ∃ cfg port env, t = { s with cfg := cfg, port := port, env := env }

theorem SameDrivers.refl (s : State) : SameDrivers s s := ⟨_, _, _, rfl⟩

/-- What one host step of a command does beyond the configuration, the port and the inputs. -/
inductive CommandMove (s : State) : State → Prop where
  | stays : CommandMove s s
  | pushes (word : Word) (hrun : s.led.state = .running) (hroom : s.led.txq.length < s.par.txqDepth) :
    CommandMove s (pushTx word s)
  | pops {l r : Word} {rest : List Word} (hrun : s.aud.state = .running) (hq : s.aud.rxq = l :: r :: rest) :
    CommandMove s (s.setAud { s.aud with rxq := rest })
  | ledInit {ch : Nat} (hcheck : ledInitCheck s = .ok ch) : CommandMove s (ledCommit ch s)
  | audInit {rate : SampleRate} {w : SampleWidth} {ch : Nat} (hcheck : audInitCheck s = .ok (rate, w, ch)) :
    CommandMove s (audioCommit rate w ch s)

/-- The LED channel moved: the lifecycle, the binding and the program are kept (R30). -/
def LedKept (l l' : LedState) : Prop :=
  ∃ txq osr osrCnt bitv pc dly out,
    l' = { l with txq := txq, osr := osr, osrCnt := osrCnt, bitv := bitv, pc := pc, dly := dly, out := out }

/-- The audio channel moved: the lifecycle, the binding and the program are kept (R34). -/
def AudioKept (a a' : AudioState) : Prop :=
  ∃ rxq isr isrCnt cnt pc bclk ws,
    a' = { a with rxq := rxq, isr := isr, isrCnt := isrCnt, cnt := cnt, pc := pc, bclk := bclk, ws := ws }

/-- What a step does beyond the configuration, the port and the inputs. -/
inductive DriverMove (s : State) : State → Prop where
  | command {t : State} (h : CommandMove s t) : DriverMove s t
  | led {l : LedState} (h : LedKept s.led l) : DriverMove s (s.setLed l)
  | audio {a : AudioState} (h : AudioKept s.aud a) : DriverMove s (s.setAud a)

/-! ## Commands -/

/-- The port is fit to run `i`: it is pending within its bounds, or it is new and nothing of it is done (R38). -/
def ReadyFor (s : State) (i : Instr) : Prop := pendingOk s i ∨ (s.port.idx = 0 ∧ s.port.emitted = [])

/-- What one host step of the command `i` makes of `s`: an answer, a hold, or one push or read that is not the last; the last
two leave `i` pending within its bounds on a port that was fit for it (R15, R38). -/
inductive CommandStep (i : Instr) (s : State) : Result → Prop where
  | answers {st : Status} {data : List Word} {u v : State} (hmove : CommandMove s u) (hsame : SameDrivers u v) :
    CommandStep i s (.next (respond st data v))
  | holds (hok : ReadyFor s i → pendingOk (hold i s) i) : CommandStep i s (.next (hold i s))
  | goesOn {k : Nat} {words : List Word} {u : State} (hmove : CommandMove s u)
    (hok : ReadyFor s i → pendingOk (progress i k words u) i) : CommandStep i s (.next (progress i k words u))

section Commands
variable {s u : State} {i : Instr}

theorem CommandStep.of_respond {st : Status} {data : List Word} (h : CommandMove s u) :
    CommandStep i s (.next (respond st data u)) :=
  .answers h (.refl u)

theorem CommandStep.of_raiseError {st : Status} : CommandStep i s (.next (raiseError st s)) := .of_respond .stays

/-- A driver's command is answered E_NOTINIT, or does what it does on a RUNNING driver (R231). -/
theorem CommandStep.of_running {state : Lifecycle} {r : Result} (h : state = .running → CommandStep i s r) :
    CommandStep i s (if state ≠ .running then .next (raiseError .eNotInit s) else r) := by
  split
  next => exact .of_raiseError
  next hrun => exact h (not_not.mp hrun)

/-- A stereo read pops a frame (R172). -/
theorem CommandMove.of_readFrame {l r : Word} (hrun : s.aud.state = .running) (h : readFrame s = some (l, r, u)) :
    CommandMove s u := by
  obtain ⟨_, _, _, hq, -, -, rfl⟩ := readFrame_eq_some.mp h
  exact .pops hrun hq

/-- A push into a queue with room (R141, R143). -/
theorem CommandMove.of_room (word : Word) (hrun : s.led.state = .running) (h : txqHasRoom s = true) :
    CommandMove s (pushTx word s) :=
  .pushes word hrun (of_decide_eq_true h)

theorem execCfgWr_step (idx : BitVec 8) (value : Word) : CommandStep i s (execCfgWr idx value s) := by
  unfold execCfgWr
  split
  · exact .answers .stays ⟨_, _, _, rfl⟩
  · exact .of_raiseError

theorem execDivCalc_step (cycles : BitVec 24) (sysClk symFreq : Word) :
    CommandStep i s (execDivCalc cycles sysClk symFreq s) := by
  unfold execDivCalc
  split
  · exact .of_respond .stays
  · exact .answers .stays ⟨_, _, _, rfl⟩

theorem execLedInit_step : CommandStep i s (execLedInit s) := by
  unfold execLedInit
  split
  next => exact .of_raiseError
  next hcheck => exact .of_respond (.ledInit hcheck)

theorem execAudInit_step : CommandStep i s (execAudInit s) := by
  unfold execAudInit
  split
  next => exact .of_raiseError
  next hcheck => exact .of_respond (.audInit hcheck)

/-- SET_COLOR and SET_RGB hold with nothing done yet. -/
theorem pushPixel_step (rgb : BitVec 24)
    (hok : s.led.state = .running → ReadyFor s i → pendingOk (hold i s) i) : CommandStep i s (pushPixel i rgb s) := by
  refine .of_running fun hrun => ?_
  split
  next hroom => exact .of_respond (.of_room _ hrun hroom)
  next => exact .holds (hok hrun)

/-- FILL and CLEAR hold or go on with fewer than `led.count` words pushed and none emitted. -/
theorem fillLine_step (word : Word) (hready : ReadyFor s i → s.port.emitted = [])
    (hok : ∀ u : State, u.led.state = .running → u.port.idx < u.led.count.toNat → u.port.emitted = [] → pendingOk u i) :
    CommandStep i s (fillLine i word s) := by
  refine .of_running fun hrun => ?_
  split
  next => exact .of_respond .stays
  next hmore =>
    split
    next hroom =>
      split
      next => exact .of_respond (.of_room _ hrun hroom)
      next hnotLast =>
        refine .goesOn (.of_room _ hrun hroom) fun h => hok _ hrun ?_ (congrArg (· ++ []) (hready h))
        change s.port.idx + 1 < s.led.count.toNat
        omega
    next => exact .holds fun h => hok _ hrun (Nat.lt_of_not_le hmore) (hready h)

/-- READ_STEREO and READ_MONO hold with nothing done yet. -/
theorem execReadStereo_step : CommandStep .readStereo s (execReadStereo s) := by
  refine .of_running fun hrun => ?_
  split
  next hframe => exact .of_respond (.of_readFrame hrun hframe)
  next => exact .holds fun h => ⟨hrun, h.elim And.right id⟩

theorem execReadMono_step : CommandStep .readMono s (execReadMono s) := by
  refine .of_running fun hrun => ?_
  split
  next hframe => exact .of_respond (.of_readFrame hrun hframe)
  next => exact .holds fun h => ⟨hrun, h.elim And.right id⟩

theorem execReadStereoNb_step : CommandStep i s (execReadStereoNb s) := by
  refine .of_running fun hrun => ?_
  split
  next hframe => exact .of_respond (.of_readFrame hrun hframe)
  next => exact .of_respond .stays

/-- A port fit for a buffer read has emitted two words for each frame read (R38, R175). -/
theorem ReadyFor.emitted_length {n : BitVec 24} (hi : i = .readSamples n ∨ i = .readSamplesAvail n)
    (h : ReadyFor s i) : s.port.emitted.length = 2 * s.port.idx := by
  obtain hpend | ⟨hidx, hemitted⟩ := h
  · obtain rfl | rfl := hi
    · obtain ⟨-, -, hlen⟩ := hpend
      exact hlen
    · obtain ⟨-, -, hlen⟩ := hpend
      exact hlen
  · rw [hidx, hemitted]
    rfl

/-- A read that is not the last: one frame more, its two words emitted, and the driver still RUNNING (R175, R176). -/
theorem pendingOk_of_read {n : BitVec 24} {l r : Word} (hi : i = .readSamples n ∨ i = .readSamplesAvail n)
    (hrun : s.aud.state = .running) (hframe : readFrame s = some (l, r, u)) (hmore : s.port.idx + 1 < n.toNat)
    (h : ReadyFor s i) : pendingOk (progress i (s.port.idx + 1) [l, r] u) i := by
  obtain ⟨_, _, _, -, -, -, rfl⟩ := readFrame_eq_some.mp hframe
  have hlen : (s.port.emitted ++ [l, r]).length = 2 * (s.port.idx + 1) := by
    rw [List.length_append, h.emitted_length hi, List.length_cons, List.length_singleton]
    omega
  obtain rfl | rfl := hi
  · exact ⟨hrun, hmore, hlen⟩
  · exact ⟨hrun, hmore, hlen⟩

theorem execReadSamples_step (n : BitVec 24) : CommandStep (.readSamples n) s (execReadSamples n s) := by
  refine .of_running fun hrun => ?_
  split
  next => exact .of_respond .stays
  next hmore =>
    split
    next hframe =>
      split
      next => exact .of_respond (.of_readFrame hrun hframe)
      next => exact .goesOn (.of_readFrame hrun hframe) (pendingOk_of_read (.inl rfl) hrun hframe (by omega))
    next => exact .holds fun h => ⟨hrun, Nat.lt_of_not_le hmore, h.emitted_length (.inl rfl)⟩

theorem execReadSamplesAvail_step (n : BitVec 24) : CommandStep (.readSamplesAvail n) s (execReadSamplesAvail n s) := by
  refine .of_running fun hrun => ?_
  split
  next => exact .of_respond .stays
  next hmore =>
    split
    next hframe =>
      split
      next => exact .of_respond (.of_readFrame hrun hframe)
      next => exact .goesOn (.of_readFrame hrun hframe) (pendingOk_of_read (.inr rfl) hrun hframe (by omega))
    next => exact .of_respond .stays

theorem execSampleToFloat_step (w : BitVec 8) (x : Word) : CommandStep i s (execSampleToFloat w x s) := by
  unfold execSampleToFloat
  split
  · exact .of_raiseError
  · exact .of_respond .stays

theorem execGetRms_step (samples : List (Word × Word)) : CommandStep i s (execGetRms samples s) := by
  unfold execGetRms
  split
  · exact .of_raiseError
  · exact .of_respond .stays

end Commands

/-- One host step of any command. -/
theorem exec_commandStep {i : Instr} (hi : i.isCommand = true) (s : State) : CommandStep i s (exec i s) := by
  cases i with
  | cfgWr idx value => exact execCfgWr_step idx value
  | divCalc cycles sysClk symFreq => exact execDivCalc_step cycles sysClk symFreq
  | ledInit => exact execLedInit_step
  | setColor rgb => exact pushPixel_step rgb fun hrun h => ⟨hrun, h.elim And.right id⟩
  | setRgb r g b => exact pushPixel_step (rgbOf r g b) fun hrun h => ⟨hrun, h.elim And.right id⟩
  | fill rgb =>
    exact fillLine_step (pixelWord rgb) (fun h => h.elim (fun ⟨_, _, hemitted⟩ => hemitted) And.right)
      fun _ hrun hidx hemitted => ⟨hrun, hidx, hemitted⟩
  | clear =>
    exact fillLine_step 0#32 (fun h => h.elim (fun ⟨_, _, hemitted⟩ => hemitted) And.right)
      fun _ hrun hidx hemitted => ⟨hrun, hidx, hemitted⟩
  | audInit => exact execAudInit_step
  | isReadable | getFifoLevel => exact .of_running fun _ => .of_respond .stays
  | readStereo => exact execReadStereo_step
  | readStereoNb => exact execReadStereoNb_step
  | readMono => exact execReadMono_step
  | readSamples n => exact execReadSamples_step n
  | readSamplesAvail n => exact execReadSamplesAvail_step n
  | sampleToMono | getPeak => exact .of_respond .stays
  | sampleToFloat w x => exact execSampleToFloat_step w x
  | getRms samples => exact execGetRms_step samples
  | _ => cases hi

/-- A command answers a next state, by a command's move. -/
theorem CommandStep.moves {i : Instr} {s : State} {r : Result} (h : CommandStep i s r) :
    ∃ u t, r = .next t ∧ CommandMove s u ∧ SameDrivers u t := by
  cases h with
  | answers hmove hsame =>
    obtain ⟨_, _, _, rfl⟩ := hsame
    exact ⟨_, _, rfl, hmove, _, _, _, rfl⟩
  | holds => exact ⟨s, _, rfl, .stays, _, _, _, rfl⟩
  | goesOn hmove => exact ⟨_, _, rfl, hmove, _, _, _, rfl⟩

/-! ## Micro-operations -/

/-- A micro-operation of the LED program moves the LED channel and nothing else (R150 to R154). -/
theorem exec_of_isLedStep {i : Instr} (hi : i.isLedStep = true) (s : State) :
    ∃ l, LedKept s.led l ∧ exec i s = .next (s.setLed l) := by
  cases i with
  | seqNop side delay operand => exact ⟨_, ⟨_, _, _, _, _, _, _, rfl⟩, exec_seqNop ..⟩
  | seqJump side delay target => exact ⟨_, ⟨_, _, _, _, _, _, _, rfl⟩, exec_seqJump ..⟩
  | seqBrz side delay target => exact ⟨_, ⟨_, _, _, _, _, _, _, rfl⟩, exec_seqBrz ..⟩
  | seqShiftOut side delay count =>
    cases hbit : comingBit s.led with
    | some bit => exact ⟨_, ⟨_, _, _, _, _, _, _, rfl⟩, exec_seqShiftOut_of_comingBit side delay count hbit⟩
    | none =>
      obtain ⟨hcnt, hq⟩ := comingBit_eq_none_iff.mp hbit
      exact ⟨_, ⟨_, _, _, _, _, _, _, rfl⟩, exec_seqShiftOut_stalls side delay count hcnt hq⟩
  | _ => cases hi

/-- A micro-operation of the audio program moves the audio channel and may draw a DATA bit, nothing else (R188 to
R198). -/
theorem exec_of_isAudioStep {i : Instr} (hi : i.isAudioStep = true) (s : State) :
    ∃ a env, AudioKept s.aud a ∧ exec i s = .next { s with aud := a, env := env } := by
  cases i with
  | seqSample side delay count =>
    by_cases hlast : s.aud.isrCnt = s.aud.w.bits - 1
    · have hwidth := two_le_bits s.aud.w
      by_cases hfull : s.aud.rxq.length = 8
      · exact ⟨_, _, ⟨_, _, _, _, _, _, _, rfl⟩, exec_seqSample_stalls side delay count hlast hfull⟩
      · exact ⟨_, _, ⟨_, _, _, _, _, _, _, rfl⟩, exec_seqSample_pushes side delay count (by omega) hfull⟩
    · exact ⟨_, _, ⟨_, _, _, _, _, _, _, rfl⟩, exec_seqSample_takes side delay count hlast⟩
  | seqLoop side delay target =>
    by_cases hcnt : s.aud.cnt = 0
    · exact ⟨_, _, ⟨_, _, _, _, _, _, _, rfl⟩, exec_seqLoop_out side delay target hcnt⟩
    · exact ⟨_, _, ⟨_, _, _, _, _, _, _, rfl⟩, exec_seqLoop_back side delay target hcnt⟩
  | seqSetCnt side delay value => exact ⟨_, _, ⟨_, _, _, _, _, _, _, rfl⟩, exec_seqSetCnt side delay value s⟩
  | _ => cases hi

/-- Every instruction is of one of the two channels' programs or a command (R3). -/
theorem level_cases (i : Instr) : i.isCommand = true ∨ i.isLedStep = true ∨ i.isAudioStep = true := by
  cases i with
  | seqNop | seqJump | seqBrz | seqShiftOut => exact .inr (.inl rfl)
  | seqSample | seqLoop | seqSetCnt => exact .inr (.inr rfl)
  | _ => exact .inl rfl

/-- Every instruction answers a next state, by a driver's move. -/
theorem exec_moves (i : Instr) (s : State) : ∃ u t, exec i s = .next t ∧ DriverMove s u ∧ SameDrivers u t := by
  obtain hi | hi | hi := level_cases i
  · obtain ⟨u, t, hexec, hmove, hsame⟩ := (exec_commandStep hi s).moves
    exact ⟨u, t, hexec, .command hmove, hsame⟩
  · obtain ⟨l, hkept, hexec⟩ := exec_of_isLedStep hi s
    exact ⟨_, _, hexec, .led hkept, .refl _⟩
  · obtain ⟨a, env, hkept, hexec⟩ := exec_of_isAudioStep hi s
    exact ⟨_, _, hexec, .audio hkept, _, _, _, rfl⟩

/-! ## Turns of the channels -/

section Fetch
variable (s : State)

/-- A channel's fetch is a step of its own program, or the machine stops (R107). -/
theorem fetchMicro_cases (prog : List Micro) (pc : Nat) (mine : Instr → Bool) (outside : Fault) :
    (∃ i, mine i = true ∧ fetchMicro prog pc mine outside s = .run i s) ∨
      ∃ f, fetchMicro prog pc mine outside s = .stop f := by
  unfold fetchMicro
  split
  next => exact .inr ⟨_, rfl⟩
  next =>
    split
    next => exact .inr ⟨_, rfl⟩
    next =>
      split
      next hmine => exact .inl ⟨_, hmine, rfl⟩
      next => exact .inr ⟨_, rfl⟩

/-- Everything the LED channel's turn can fetch (R150, R155). -/
theorem fetchLed_cases :
    fetchLed s = .settled s ∨ fetchLed s = .settled (ledDelayTick s) ∨
      (∃ i, i.isLedStep = true ∧ fetchLed s = .run i s) ∨ ∃ f, fetchLed s = .stop f := by
  unfold fetchLed
  split
  next => exact .inl rfl
  next =>
    split
    next => exact .inr (.inl rfl)
    next => exact .inr (.inr (fetchMicro_cases s _ _ _ _))

/-- Everything the audio channel's turn can fetch (R189). -/
theorem fetchAudio_cases :
    fetchAudio s = .settled s ∨ (∃ i, i.isAudioStep = true ∧ fetchAudio s = .run i s) ∨
      ∃ f, fetchAudio s = .stop f := by
  unfold fetchAudio
  split
  next => exact .inl rfl
  next => exact .inr (fetchMicro_cases s _ _ _ _)

end Fetch

theorem LedKept.refl (l : LedState) : LedKept l l := ⟨_, _, _, _, _, _, _, rfl⟩

theorem AudioKept.refl (a : AudioState) : AudioKept a a := ⟨_, _, _, _, _, _, _, rfl⟩

section Steps
variable {s t : State}

/-- A turn of the LED channel moves that channel and takes the turn, nothing else (R16, R155). -/
theorem step_led_frame (hturn : nextAgent s = .led) (h : step s = .next t) :
    ∃ l env, LedKept s.led l ∧ t = { s with led := l, env := env } := by
  have hfetch : fetch s = fetchLed (takeTurn s) := by rw [fetch, hturn]
  rw [step, hfetch] at h
  obtain hcase | hcase | ⟨i, hi, hcase⟩ | ⟨f, hcase⟩ := fetchLed_cases (takeTurn s)
  all_goals rw [hcase] at h
  · cases h
    exact ⟨_, _, .refl _, rfl⟩
  · cases h
    exact ⟨_, _, ⟨_, _, _, _, _, _, _, rfl⟩, rfl⟩
  · obtain ⟨l, hkept, hexec⟩ := exec_of_isLedStep hi (takeTurn s)
    cases hexec.symm.trans h
    exact ⟨l, _, hkept, rfl⟩
  · cases h

/-- A turn of the audio channel moves that channel and the inputs, nothing else (R16, R199). -/
theorem step_audio_frame (hturn : nextAgent s = .audio) (h : step s = .next t) :
    ∃ a env, AudioKept s.aud a ∧ t = { s with aud := a, env := env } := by
  have hfetch : fetch s = fetchAudio (takeTurn s) := by rw [fetch, hturn]
  rw [step, hfetch] at h
  obtain hcase | ⟨i, hi, hcase⟩ | ⟨f, hcase⟩ := fetchAudio_cases (takeTurn s)
  all_goals rw [hcase] at h
  · cases h
    exact ⟨_, _, .refl _, rfl⟩
  · obtain ⟨a, env, hkept, hexec⟩ := exec_of_isAudioStep hi (takeTurn s)
    cases hexec.symm.trans h
    exact ⟨a, env, hkept, rfl⟩
  · cases h

/-! ## Steps -/

/-- What the host's turn decodes is a command (R93). -/
theorem isCommand_of_decodePacket {ws rest : List Word} {i : Instr} (h : decodePacket ws = .instr i rest) :
    i.isCommand = true := by
  obtain ⟨-, packet, henc, -⟩ := encode_of_decodePacket h
  cases i with
  | seqNop | seqJump | seqBrz | seqShiftOut | seqSample | seqLoop | seqSetCnt => cases henc
  | _ => rfl

/-- The host's turn moves no driver, or runs the pending command or a decoded one on the same drivers (R81, R246). -/
theorem step_host (hturn : nextAgent s = .host) : (∃ t, step s = .next t ∧ SameDrivers s t) ∨
    ∃ i u, (s.port.pending = some i ∨ i.isCommand = true) ∧ SameDrivers s u ∧ step s = exec i u := by
  have hfetch : fetch s = fetchHost (takeTurn s) := by rw [fetch, hturn]
  rw [step, hfetch]
  obtain ⟨i, hpend, hcase⟩ | ⟨-, ⟨i, rest, hdec, hcase⟩ | ⟨rest, -, hcase⟩ | ⟨-, hcase⟩⟩ :=
    fetchHost_cases (takeTurn s)
  all_goals rw [hcase]
  · exact .inr ⟨i, _, .inl hpend, ⟨_, _, _, rfl⟩, rfl⟩
  · exact .inr ⟨i, _, .inr (isCommand_of_decodePacket hdec), ⟨_, _, _, rfl⟩, rfl⟩
  · exact .inl ⟨_, rfl, _, _, _, rfl⟩
  · exact .inl ⟨_, rfl, _, _, _, rfl⟩

/-- The host's turn always ends in a next state. -/
theorem stepsOn_of_host (hturn : nextAgent s = .host) : StepsOn s := by
  obtain ⟨t, hstep, -⟩ | ⟨i, u, -, -, hstep⟩ := step_host hturn
  · exact ⟨t, hstep⟩
  · obtain ⟨-, t, hexec, -⟩ := exec_moves i u
    exact ⟨t, hstep.trans hexec⟩

/-- Every step is a driver's move, up to the configuration, the port and the inputs. -/
theorem step_moves (h : step s = .next t) : ∃ u v, SameDrivers s u ∧ DriverMove u v ∧ SameDrivers v t := by
  cases hturn : nextAgent s with
  | host =>
    obtain ⟨t', hstep, hsame⟩ | ⟨i, u, -, hsame, hstep⟩ := step_host hturn
    · cases hstep.symm.trans h
      exact ⟨s, s, .refl s, .command .stays, hsame⟩
    · obtain ⟨v, t', hexec, hmove, hsame'⟩ := exec_moves i u
      cases (hstep.trans hexec).symm.trans h
      exact ⟨u, v, hsame, hmove, hsame'⟩
  | led =>
    obtain ⟨l, env, hkept, rfl⟩ := step_led_frame hturn h
    exact ⟨s, _, .refl s, .led hkept, _, _, _, rfl⟩
  | audio =>
    obtain ⟨a, env, hkept, rfl⟩ := step_audio_frame hturn h
    exact ⟨s, _, .refl s, .audio hkept, _, _, _, rfl⟩

/-- While only commands are pending the host's turn is a command's move. -/
theorem step_host_moves (hturn : nextAgent s = .host) (hpend : ∀ i, s.port.pending = some i → i.isCommand = true)
    (h : step s = .next t) : ∃ u v, SameDrivers s u ∧ CommandMove u v ∧ SameDrivers v t := by
  obtain ⟨t', hstep, hsame⟩ | ⟨i, u, hi, hsame, hstep⟩ := step_host hturn
  · cases hstep.symm.trans h
    exact ⟨s, s, .refl s, .stays, hsame⟩
  · obtain ⟨v, t', hexec, hmove, hsame'⟩ := (exec_commandStep (hi.elim (hpend i) id) u).moves
    cases (hstep.trans hexec).symm.trans h
    exact ⟨u, v, hsame, hmove, hsame'⟩

end Steps

end Sys2Proof.Machine

namespace Sys2Proof.Proofs

open Sys2Proof.Machine

/-- Settles O14. -/
theorem everyInstructionAnswers : Obligations.EveryInstructionAnswers := by
  intro i s
  obtain ⟨_, t, hexec, -⟩ := exec_moves i s
  exact ⟨t, hexec⟩

end Sys2Proof.Proofs
end

section
/-! SUPPORT. What every step keeps of the lifecycle, the bindings and the claims, read off the moves of a step (R30, R34, R37,
R243, R244). -/

namespace Sys2Proof.Machine

open Sys2Proof.Claims

/-! ## Claims -/

/-- Every claim of `l` is set in `l'`, which has as many bits (R37). -/
structure ClaimsKept (l l' : List Bool) : Prop where
  length : l'.length = l.length
  claimed : ∀ i : Nat, l[i]? = some true → l'[i]? = some true

theorem ClaimsKept.refl (l : List Bool) : ClaimsKept l l := ⟨rfl, fun _ => id⟩

theorem ClaimsKept.set {l l' : List Bool} (h : ClaimsKept l l') (n : Nat) : ClaimsKept l (l'.set n true) where
  length := List.length_set.trans h.length
  claimed := fun i hi => by
    have hi' := h.claimed i hi
    by_cases hn : n = i
    · subst hn
      rw [List.getElem?_set_self (List.getElem?_eq_some_iff.mp hi').1]
    · rwa [List.getElem?_set_ne hn]

/-- Every move keeps the claims. -/
theorem DriverMove.claimsKept {s t : State} (h : DriverMove s t) :
    ClaimsKept s.chanClaimed t.chanClaimed ∧ ClaimsKept s.pinClaimed t.pinClaimed := by
  cases h with
  | command h =>
    cases h with
    | stays | pushes | pops => exact ⟨.refl _, .refl _⟩
    | ledInit => exact ⟨.set (.refl _) _, .set (.refl _) _⟩
    | audInit => exact ⟨.set (.refl _) _, .set (.set (.set (.refl _) _) _) _⟩
  | led | audio => exact ⟨.refl _, .refl _⟩

/-- Every step keeps the claims. -/
theorem step_claimsKept {s t : State} (h : step s = .next t) :
    ClaimsKept s.chanClaimed t.chanClaimed ∧ ClaimsKept s.pinClaimed t.pinClaimed := by
  obtain ⟨u, v, ⟨_, _, _, rfl⟩, hmove, ⟨_, _, _, rfl⟩⟩ := step_moves h
  exact hmove.claimsKept

/-! ## Bindings -/

/-- A RUNNING LED driver is still RUNNING, with its binding as it was (R30, R244). -/
def LedBindingKept (l l' : LedState) : Prop :=
  l.state = .running → l'.state = .running ∧ l'.chan = l.chan ∧ l'.pin = l.pin ∧ l'.count = l.count ∧ l'.div = l.div

/-- A RUNNING audio driver is still RUNNING, with its binding and program as they were (R34, R244). -/
def AudioBindingKept (a a' : AudioState) : Prop :=
  a.state = .running → a'.state = .running ∧ a'.chan = a.chan ∧ a'.clkPin = a.clkPin ∧ a'.wsPin = a.wsPin ∧
    a'.dataPin = a.dataPin ∧ a'.w = a.w ∧ a'.rate = a.rate ∧ a'.div = a.div ∧ a'.prog = a.prog

theorem LedKept.bindingKept {l l' : LedState} (h : LedKept l l') : LedBindingKept l l' := by
  obtain ⟨_, _, _, _, _, _, _, rfl⟩ := h
  exact fun hrun => ⟨hrun, rfl, rfl, rfl, rfl⟩

theorem AudioKept.bindingKept {a a' : AudioState} (h : AudioKept a a') : AudioBindingKept a a' := by
  obtain ⟨_, _, _, _, _, _, _, rfl⟩ := h
  exact fun hrun => ⟨hrun, rfl, rfl, rfl, rfl, rfl, rfl, rfl, rfl⟩

theorem LedBindingKept.refl (l : LedState) : LedBindingKept l l := fun hrun => ⟨hrun, rfl, rfl, rfl, rfl⟩

theorem AudioBindingKept.refl (a : AudioState) : AudioBindingKept a a :=
  fun hrun => ⟨hrun, rfl, rfl, rfl, rfl, rfl, rfl, rfl, rfl⟩

/-- No move changes a RUNNING driver's binding: an INIT that commits finds its driver UNINIT (R140, R170). -/
theorem DriverMove.bindingsKept {s t : State} (h : DriverMove s t) :
    LedBindingKept s.led t.led ∧ AudioBindingKept s.aud t.aud := by
  cases h with
  | command h =>
    cases h with
    | stays => exact ⟨.refl _, .refl _⟩
    | pushes => exact ⟨LedKept.bindingKept ⟨_, _, _, _, _, _, _, rfl⟩, .refl _⟩
    | pops => exact ⟨.refl _, AudioKept.bindingKept ⟨_, _, _, _, _, _, _, rfl⟩⟩
    | ledInit hcheck => exact ⟨fun hrun => absurd hrun (ledInitCheck_ok hcheck).1, .refl _⟩
    | audInit hcheck => exact ⟨.refl _, fun hrun => absurd hrun (audInitCheck_ok hcheck).1⟩
  | led hkept => exact ⟨hkept.bindingKept, .refl _⟩
  | audio hkept => exact ⟨.refl _, hkept.bindingKept⟩

/-- No step changes a RUNNING driver's binding (R30, R34, R270). -/
theorem step_bindingsKept {s t : State} (h : step s = .next t) :
    LedBindingKept s.led t.led ∧ AudioBindingKept s.aud t.aud := by
  obtain ⟨u, v, ⟨_, _, _, rfl⟩, hmove, ⟨_, _, _, rfl⟩⟩ := step_moves h
  exact hmove.bindingsKept

/-! ## The claim arena -/

/-- The arena's invariant reads the drivers and the claims only. -/
theorem ArenaInv.of_sameDrivers {s t : State} (h : ArenaInv s) (hsame : SameDrivers s t) : ArenaInv t := by
  obtain ⟨_, _, _, rfl⟩ := hsame
  exact ⟨h.ledClaims, h.audioChannel, h.audioPins, h.contiguous, h.apart⟩

/-- A bit that is set is not one that is free. -/
theorem ne_of_claimed {l : List Bool} {i j : Nat} (hi : l[i]? = some true) (hj : l[j]? = some false) : i ≠ j := by
  rintro rfl
  cases hi.symm.trans hj

theorem claimed_set_self {l : List Bool} {n : Nat} (h : l[n]? = some false) : (l.set n true)[n]? = some true :=
  List.getElem?_set_self (List.getElem?_eq_some_iff.mp h).1

theorem pinFree_iff {s : State} {n : Nat} (hn : n < nGpio s) : pinIsClaimed s n = false ↔ s.pinClaimed[n]? = some false := by
  have hpin : s.pinClaimed[n]? = some s.pinClaimed[n] := List.getElem?_eq_getElem hn
  rw [← Bool.not_eq_true, pinIsClaimed_iff, hpin]
  simp

/-- What LED_INIT commits claims a free channel and a free pin (R140, R243). -/
theorem ledInitCheck_free {s : State} {ch : Nat} (h : ledInitCheck s = .ok ch) :
    s.chanClaimed[ch]? = some false ∧ s.pinClaimed[s.cfg.ledPin.toNat]? = some false := by
  obtain ⟨-, hrange, -, hpin, hchan⟩ := ledInitCheck_ok h
  exact ⟨(freeChannel_eq_some hchan).1, (pinFree_iff hrange).mp hpin⟩

/-- What AUD_INIT commits claims a free channel and three free pins in a row (R170, R243). -/
theorem audInitCheck_free {s : State} {rate : SampleRate} {w : SampleWidth} {ch : Nat}
    (h : audInitCheck s = .ok (rate, w, ch)) :
    s.chanClaimed[ch]? = some false ∧ s.pinClaimed[s.cfg.audClkPin.toNat]? = some false ∧
      s.pinClaimed[s.cfg.audWsPin.toNat]? = some false ∧ s.pinClaimed[s.cfg.audDataPin.toNat]? = some false ∧
      s.cfg.audWsPin.toNat = s.cfg.audClkPin.toNat + 1 ∧ s.cfg.audDataPin.toNat = s.cfg.audWsPin.toNat + 1 := by
  obtain ⟨-, -, -, hpins, hrange, -, hbusy, hchan⟩ := audInitCheck_ok h
  simp only [pinsContiguous, Bool.and_eq_true, decide_eq_true_iff] at hpins
  obtain ⟨hws, hdata⟩ := hpins
  simp only [audioPinBusy, Bool.or_eq_false_iff] at hbusy
  obtain ⟨⟨hclkFree, hwsFree⟩, hdataFree⟩ := hbusy
  exact ⟨(freeChannel_eq_some hchan).1, (pinFree_iff (by omega)).mp hclkFree, (pinFree_iff (by omega)).mp hwsFree,
    (pinFree_iff hrange).mp hdataFree, hws, hdata⟩

/-- A move that keeps both lifecycles, both bindings and the claims keeps the arena. -/
theorem ArenaInv.of_kept {s : State} {l : LedState} {a : AudioState} (h : ArenaInv s) (hled : LedKept s.led l)
    (haud : AudioKept s.aud a) : ArenaInv { s with led := l, aud := a } := by
  obtain ⟨_, _, _, _, _, _, _, rfl⟩ := hled
  obtain ⟨_, _, _, _, _, _, _, rfl⟩ := haud
  exact ⟨h.ledClaims, h.audioChannel, h.audioPins, h.contiguous, h.apart⟩

/-- LED_INIT claims what the audio driver has not (R243). -/
theorem ArenaInv.ledCommit {s : State} {ch : Nat} (h : ArenaInv s) (hcheck : ledInitCheck s = .ok ch) :
    ArenaInv (ledCommit ch s) := by
  obtain ⟨hchan, hpin⟩ := ledInitCheck_free hcheck
  have hchans := ClaimsKept.set (.refl s.chanClaimed) ch
  have hpins := ClaimsKept.set (.refl s.pinClaimed) s.cfg.ledPin.toNat
  exact {
    ledClaims := fun _ => ⟨claimed_set_self hchan, claimed_set_self hpin⟩
    audioChannel := fun hrun => hchans.claimed _ (h.audioChannel hrun)
    audioPins := fun hrun => by
      obtain ⟨hclk, hws, hdata⟩ := h.audioPins hrun
      exact ⟨hpins.claimed _ hclk, hpins.claimed _ hws, hpins.claimed _ hdata⟩
    contiguous := h.contiguous
    apart := fun _ hrun => by
      obtain ⟨hclk, hws, hdata⟩ := h.audioPins hrun
      exact ⟨(ne_of_claimed (h.audioChannel hrun) hchan).symm, (ne_of_claimed hclk hpin).symm,
        (ne_of_claimed hws hpin).symm, (ne_of_claimed hdata hpin).symm⟩ }

/-- AUD_INIT claims what the LED driver has not (R243). -/
theorem ArenaInv.audioCommit {s : State} {rate : SampleRate} {w : SampleWidth} {ch : Nat} (h : ArenaInv s)
    (hcheck : audInitCheck s = .ok (rate, w, ch)) : ArenaInv (audioCommit rate w ch s) := by
  obtain ⟨hchan, hclk, hws, hdata, hwsNext, hdataNext⟩ := audInitCheck_free hcheck
  have hchans := ClaimsKept.set (.refl s.chanClaimed) ch
  have hpins := ((ClaimsKept.set (.refl s.pinClaimed) s.cfg.audClkPin.toNat).set s.cfg.audWsPin.toNat).set
    s.cfg.audDataPin.toNat
  have hset (l : List Bool) (n : Nat) : ClaimsKept l (l.set n true) := .set (.refl l) n
  exact {
    ledClaims := fun hrun => by
      obtain ⟨hledChan, hledPin⟩ := h.ledClaims hrun
      exact ⟨hchans.claimed _ hledChan, hpins.claimed _ hledPin⟩
    audioChannel := fun _ => claimed_set_self hchan
    audioPins := fun _ => by
      refine ⟨(hset _ _).claimed _ ((hset _ _).claimed _ (claimed_set_self hclk)), (hset _ _).claimed _ ?_, ?_⟩
      · exact claimed_set_self ((List.getElem?_set_ne (by omega)).trans hws)
      · exact claimed_set_self ((List.getElem?_set_ne (by omega)).trans <|
          (List.getElem?_set_ne (by omega)).trans hdata)
    contiguous := fun _ => ⟨hwsNext, hdataNext.trans (congrArg (· + 1) hwsNext)⟩
    apart := fun hrun _ => by
      obtain ⟨hledChan, hledPin⟩ := h.ledClaims hrun
      exact ⟨ne_of_claimed hledChan hchan, ne_of_claimed hledPin hclk, ne_of_claimed hledPin hws,
        ne_of_claimed hledPin hdata⟩ }

/-- Every move keeps the arena. -/
theorem ArenaInv.of_move {s t : State} (h : ArenaInv s) (hmove : DriverMove s t) : ArenaInv t := by
  cases hmove with
  | command hmove =>
    cases hmove with
    | stays => exact h
    | pushes => exact h.of_kept ⟨_, _, _, _, _, _, _, rfl⟩ (.refl _)
    | pops => exact h.of_kept (.refl _) ⟨_, _, _, _, _, _, _, rfl⟩
    | ledInit hcheck => exact h.ledCommit hcheck
    | audInit hcheck => exact h.audioCommit hcheck
  | led hkept => exact h.of_kept hkept (.refl _)
  | audio hkept => exact h.of_kept (.refl _) hkept

/-! ## Pins -/

section Pins
variable {s : State}

/-- The LED pin of a RUNNING driver is driven at LEDOUT (R32, R65). -/
theorem drivenLevel_ledPin (hrun : s.led.state = .running) : drivenLevel s s.led.pin = s.led.out := if_pos ⟨hrun, rfl⟩

/-- A pin that is not a RUNNING LED driver's is the audio driver's or not driven (R36, R65). -/
theorem drivenLevel_of_notLed {n : Nat} (hled : s.led.state = .running → s.led.pin ≠ n)
    (hrun : s.aud.state = .running) :
    drivenLevel s n = if n = s.aud.clkPin then s.aud.bclk else if n = s.aud.wsPin then s.aud.ws else none := by
  rw [drivenLevel, if_neg fun ⟨hrun, hpin⟩ => hled hrun hpin.symm]
  simp only [hrun, true_and]

/-- BCLK and WS are driven on the pins of a RUNNING audio driver, DATA is not (R36, R65). -/
theorem ArenaInv.drivenLevel_audioPins (h : ArenaInv s) (hrun : s.aud.state = .running) :
    drivenLevel s s.aud.clkPin = s.aud.bclk ∧ drivenLevel s s.aud.wsPin = s.aud.ws ∧
      drivenLevel s s.aud.dataPin = none := by
  obtain ⟨hws, hdata⟩ := h.contiguous hrun
  have hapart {n : Nat} (hn : n = s.aud.clkPin ∨ n = s.aud.wsPin ∨ n = s.aud.dataPin)
      (hled : s.led.state = .running) : s.led.pin ≠ n := by
    obtain ⟨-, hne⟩ := h.apart hled hrun
    omega
  refine ⟨?_, ?_, ?_⟩
  · rw [drivenLevel_of_notLed (hapart (.inl rfl)) hrun, if_pos rfl]
  · rw [drivenLevel_of_notLed (hapart (.inr (.inl rfl))) hrun, if_neg (by omega), if_pos rfl]
  · rw [drivenLevel_of_notLed (hapart (.inr (.inr rfl))) hrun, if_neg (by omega), if_neg (by omega)]

/-- A driven pin is claimed (R243). -/
theorem ArenaInv.claimed_of_driven (h : ArenaInv s) {n : Nat} (hdriven : drivenLevel s n ≠ none) :
    s.pinClaimed[n]? = some true := by
  obtain ⟨level, hlevel⟩ := Option.ne_none_iff_exists'.mp hdriven
  obtain ⟨hrun, rfl, -⟩ | ⟨hrun, rfl, -⟩ | ⟨hrun, rfl, -⟩ := drivenLevel_eq_some hlevel
  · exact (h.ledClaims hrun).2
  · exact (h.audioPins hrun).1
  · exact (h.audioPins hrun).2.1

end Pins

end Sys2Proof.Machine

namespace Sys2Proof.Proofs

open Sys2Proof.Machine

/-- Settles O55: an INIT that commits claims what is free, and no other move touches the arena (`ArenaInv.of_move`). -/
theorem stepKeepsArenaInv : Obligations.StepKeepsArenaInv := by
  intro s t hinv hstep
  obtain ⟨u, v, hbefore, hmove, hafter⟩ := step_moves hstep
  exact ((hinv.of_sameDrivers hbefore).of_move hmove).of_sameDrivers hafter

/-- Settles O58. -/
theorem runningBindingIsFixed : Obligations.RunningBindingIsFixed := fun _ _ => step_bindingsKept

/-- Settles O59: the claims by `step_claimsKept`, the pins by what the arena's invariant says of them. -/
theorem claimsAreNeverReleased : Obligations.ClaimsAreNeverReleased := by
  refine ⟨fun s t hstep => ?_, fun s hinv => ⟨drivenLevel_ledPin, fun hrun => ?_, drivenLevel_of_uninit,
    fun n => hinv.claimed_of_driven⟩⟩
  · obtain ⟨hchan, hpin⟩ := step_claimsKept hstep
    exact ⟨hchan.length, hpin.length, hchan.claimed, hpin.claimed⟩
  · obtain ⟨hclk, hws, hdata⟩ := hinv.drivenLevel_audioPins hrun
    exact ⟨hclk, hws, hdata, (hinv.audioPins hrun).2.2⟩

end Sys2Proof.Proofs
end

section
/-! SUPPORT. The port's pending command stays within its bounds (R15, R38, R143, R175, R176, R246). -/

namespace Sys2Proof.Machine

open Sys2Proof.Claims

/-! ## The port after a host step -/

/-- The outcome is a next state that meets the port's invariant. -/
def MeetsPortInv (r : Result) : Prop := ∃ t, r = .next t ∧ PortInv t

/-- A port with `i` pending within its bounds. -/
theorem PortInv.of_pendingOk {s : State} {i : Instr} (hpend : s.port.pending = some i) (hok : pendingOk s i) :
    PortInv s where
  idle := fun hidle => by cases hidle.symm.trans hpend
  pending := fun j hj => by
    cases hj.symm.trans hpend
    exact hok

/-- An IDLE port with nothing done (R38). -/
theorem PortInv.of_idle {s : State} (hpend : s.port.pending = none) (hidx : s.port.idx = 0)
    (hemitted : s.port.emitted = []) : PortInv s where
  idle := fun _ => ⟨hidx, hemitted⟩
  pending := fun j hj => by cases hj.symm.trans hpend

/-- A command on a port fit for it leaves the port in order: it answers, or is pending within its bounds (R15, R38). -/
theorem CommandStep.meetsPortInv {i : Instr} {s : State} {r : Result} (h : CommandStep i s r) (hready : ReadyFor s i) :
    MeetsPortInv r := by
  cases h with
  | answers => exact ⟨_, rfl, .of_idle rfl rfl rfl⟩
  | holds hok => exact ⟨_, rfl, .of_pendingOk rfl (hok hready)⟩
  | goesOn _ hok => exact ⟨_, rfl, .of_pendingOk rfl (hok hready)⟩

/-! ## Steps -/

section Steps
variable {s t : State}

/-- Only commands are ever pending (R38). -/
theorem PortInv.isCommand (h : PortInv s) {i : Instr} (hpend : s.port.pending = some i) : i.isCommand = true := by
  have hok := h.pending i hpend
  cases i with
  | seqNop | seqJump | seqBrz | seqShiftOut | seqSample | seqLoop | seqSetCnt => exact hok.elim
  | _ => rfl

/-- The port's invariant reads the port, the two lifecycles and `led.count`, which a channel's turn keeps. -/
theorem PortInv.of_kept {l : LedState} {a : AudioState} {env : Env} (h : PortInv s) (hled : LedKept s.led l)
    (haud : AudioKept s.aud a) : PortInv { s with led := l, aud := a, env := env } := by
  obtain ⟨_, _, _, _, _, _, _, rfl⟩ := hled
  obtain ⟨_, _, _, _, _, _, _, rfl⟩ := haud
  refine ⟨h.idle, fun i hi => ?_⟩
  have hok := h.pending i hi
  cases i with
  | _ => exact hok

/-- The host's turn keeps the port in order. -/
theorem PortInv.of_hostStep (h : PortInv s) (hturn : nextAgent s = .host) : MeetsPortInv (step s) := by
  have hfetch : fetch s = fetchHost (takeTurn s) := by rw [fetch, hturn]
  rw [step, hfetch]
  obtain ⟨i, hpend, hcase⟩ | ⟨hidle, hcases⟩ := fetchHost_cases (takeTurn s)
  · rw [hcase]
    have hok : pendingOk (takeTurn s) i := (h.of_kept (.refl _) (.refl _)).pending i hpend
    exact (exec_commandStep (h.isCommand hpend) _).meetsPortInv (.inl hok)
  · obtain ⟨hidx, hemitted⟩ := h.idle hidle
    obtain ⟨i, rest, hdec, hcase⟩ | ⟨rest, -, hcase⟩ | ⟨-, hcase⟩ := hcases
    all_goals rw [hcase]
    · exact (exec_commandStep (isCommand_of_decodePacket hdec) _).meetsPortInv (.inr ⟨hidx, hemitted⟩)
    · exact ⟨_, rfl, .of_idle rfl rfl rfl⟩
    · exact ⟨_, rfl, .of_idle hidle hidx hemitted⟩

end Steps

end Sys2Proof.Machine

namespace Sys2Proof.Proofs

open Sys2Proof.Machine

/-- Settles O56: the host's turn by `PortInv.of_hostStep`; a channel's turn leaves all that the invariant reads. -/
theorem stepKeepsPortInv : Obligations.StepKeepsPortInv := by
  intro s t hinv hstep
  cases hturn : nextAgent s with
  | host =>
    obtain ⟨t', hstep', hinv'⟩ := hinv.of_hostStep hturn
    cases hstep.symm.trans hstep'
    exact hinv'
  | led =>
    obtain ⟨l, env, hkept, rfl⟩ := step_led_frame hturn hstep
    exact hinv.of_kept hkept (.refl _)
  | audio =>
    obtain ⟨a, env, hkept, rfl⟩ := step_audio_frame hturn hstep
    exact hinv.of_kept (.refl _) hkept

end Sys2Proof.Proofs
end

section
/-! SUPPORT. The LED driver's invariant: every tick of its channel, spelled out step by step, and every command (R23, R27, R28,
R31, R108, R150 to R157). -/

namespace Sys2Proof.Machine

open Sys2Proof.Claims

/-! ## Ticks that depend on the channel alone -/

/-- A tick takes the LED channel from `l` to `l'`, whatever the rest of the state (R80). -/
def LedTicksTo (l l' : LedState) : Prop := ∀ u : State, u.led = l → tick .led u = .next (ledLater u l' 1)

section Ticks
variable {l : LedState}

theorem LedTicksTo.uninit (huninit : l.state = .uninit) : LedTicksTo l l := by
  rintro u rfl
  exact step_led_of_uninit (s := grantTurn .led u) rfl huninit

theorem LedTicksTo.delayed (hrun : l.state = .running) (hdly : 0 < l.dly) :
    LedTicksTo l { l with dly := l.dly - 1 } := by
  rintro u rfl
  exact tick_led_eq_delay hrun hdly

variable (hrun : l.state = .running) (hprog : l.prog = ledProgram) (hdly : l.dly = 0)
include hrun hprog hdly

theorem LedTicksTo.bitFetch {bit : Bool} (hpc : l.pc = 0) (hbit : comingBit l = some bit) :
    LedTicksTo l { shiftedOut l with out := some false, pc := 1, dly := 1 } := by
  rintro u rfl
  exact tick_bitFetch hrun hprog hpc hdly hbit

/-- `bit_fetch` with nothing to send (R151, R157). -/
theorem LedTicksTo.stalled (hpc : l.pc = 0) (hcnt : l.osrCnt = 24) (hq : l.txq = []) :
    LedTicksTo l { l with out := some false } := by
  rintro u rfl
  have hdue : LedStepDue (grantTurn .led u) := ⟨rfl, hrun, hdly, hprog⟩
  exact hdue.step_bitFetch_stalls hpc hcnt hq

theorem LedTicksTo.bitTest (hpc : l.pc = 1) :
    LedTicksTo l { l with out := some true, pc := if l.bitv then 2 else 3, dly := 2 } := by
  rintro u rfl
  exact tick_bitTest hrun hprog hpc hdly

theorem LedTicksTo.tail (hpc : l.pc = if l.bitv then 2 else 3) :
    LedTicksTo l { l with out := some l.bitv, pc := 0, dly := 4 } := by
  rintro u rfl
  exact tick_tail hrun hprog hpc hdly

end Ticks

/-! ## The invariant -/

section Kept
variable {s t : State}

/-- The LED driver's invariant reads that driver and TXQ_DEPTH only. -/
theorem LedInv.of_led (h : LedInv s) (hled : t.led = s.led) (hpar : t.par = s.par) : LedInv t where
  program := hled ▸ h.program
  depth := by rw [hled, hpar]; exact h.depth
  count := hled ▸ h.count
  index := hled ▸ h.index
  delay := hled ▸ h.delay
  shifted := hled ▸ h.shifted
  oneTail := hled ▸ h.oneTail
  zeroTail := hled ▸ h.zeroTail
  undriven := hled ▸ h.undriven
  driven := hled ▸ h.driven

theorem LedInv.of_sameDrivers (h : LedInv s) (hsame : SameDrivers s t) : LedInv t := by
  obtain ⟨_, _, _, rfl⟩ := hsame
  exact h.of_led rfl rfl

/-- No command takes the LED driver out of its invariant: a push finds room, a commit starts afresh (R140, R141). -/
theorem LedInv.of_command (h : LedInv s) (hmove : CommandMove s t) : LedInv t := by
  cases hmove with
  | stays => exact h
  | pops | audInit => exact h.of_led rfl rfl
  | pushes word hrun hroom =>
    have hdepth : (s.led.txq ++ [word]).length ≤ s.par.txqDepth := by
      rw [List.length_append]
      exact hroom
    exact { h with depth := hdepth, undriven := fun huninit => absurd hrun (Lifecycle.ne_running huninit) }
  | ledInit hcheck => exact {
      program := h.program
      depth := Nat.zero_le _
      count := le_rfl
      index := Nat.succ_pos _
      delay := Nat.zero_le _
      shifted := fun hpc => absurd rfl hpc
      oneTail := nofun
      zeroTail := nofun
      undriven := nofun
      driven := fun _ => rfl }

/-- A RUNNING channel at `l'`, back at `bit_fetch` or at a step its bit allows, in its ranges. -/
theorem LedInv.of_running {l : LedState} (h : LedInv s) (hrun : l.state = .running) (hprog : l.prog = ledProgram)
    (hdepth : l.txq.length ≤ s.led.txq.length) (hout : l.out.isSome = true) (hdly : l.dly ≤ 4)
    (hcnt : l.osrCnt ≤ 24) (hshifted : l.pc ≠ 0 → 0 < l.osrCnt)
    (hpc : l.pc = 0 ∨ l.pc = 1 ∨ l.pc = if l.bitv then 2 else 3) : LedInv (s.setLed l) where
  program := hprog
  depth := hdepth.trans h.depth
  count := hcnt
  index := by
    change l.pc < 4
    split at hpc <;> omega
  delay := hdly
  shifted := hshifted
  oneTail := fun htwo => by
    change l.pc = 2 at htwo
    change l.bitv = true
    split at hpc
    · assumption
    · omega
  zeroTail := fun hthree => by
    change l.pc = 3 at hthree
    change l.bitv = false
    split at hpc
    · omega
    · simpa using ‹¬ l.bitv = true›
  undriven := fun huninit => absurd hrun (Lifecycle.ne_running huninit)
  driven := fun _ => hout

/-- A RUNNING channel outside a delay stands at `bit_fetch`, at `bit_test` or at the tail of its bit (R108). -/
theorem LedInv.pc_cases (h : LedInv s) : s.led.pc = 0 ∨ s.led.pc = 1 ∨ s.led.pc = if s.led.bitv then 2 else 3 := by
  have hpc := h.index
  cases hbit : s.led.bitv with
  | true =>
    have hne : s.led.pc ≠ 3 := fun h3 => by cases hbit.symm.trans (h.zeroTail h3)
    rw [if_pos rfl]
    omega
  | false =>
    have hne : s.led.pc ≠ 2 := fun h2 => by cases hbit.symm.trans (h.oneTail h2)
    rw [if_neg Bool.false_ne_true]
    omega

/-- From its invariant the LED channel ticks, whatever the rest of the state, and keeps it (R150 to R157). -/
theorem LedInv.ticksTo (h : LedInv s) : ∃ l, LedTicksTo s.led l ∧ LedInv (s.setLed l) := by
  have hcnt := h.count
  have hdly := h.delay
  cases hstate : s.led.state with
  | uninit => exact ⟨_, .uninit hstate, h⟩
  | running =>
    have hout := h.driven hstate
    obtain hdly0 | hpos := Nat.eq_zero_or_pos s.led.dly
    case inr =>
      exact ⟨_, .delayed hstate hpos,
        h.of_running hstate h.program le_rfl hout ((Nat.sub_le _ _).trans hdly) hcnt h.shifted h.pc_cases⟩
    obtain hpc | hpc | hpc := h.pc_cases
    case inl =>
      cases hbit : comingBit s.led with
      | none =>
        obtain ⟨hcnt24, hq⟩ := comingBit_eq_none_iff.mp hbit
        exact ⟨_, .stalled hstate h.program hdly0 hpc hcnt24 hq,
          h.of_running hstate h.program le_rfl rfl hdly hcnt h.shifted h.pc_cases⟩
      | some bit =>
        have hlen : (if s.led.osrCnt = 24 then s.led.txq.tail else s.led.txq).length ≤ s.led.txq.length := by
          split
          · exact List.length_tail ▸ Nat.sub_le _ _
          · exact le_rfl
        obtain ⟨hpos, hle⟩ : 0 < (if s.led.osrCnt = 24 then 1 else s.led.osrCnt + 1) ∧
            (if s.led.osrCnt = 24 then 1 else s.led.osrCnt + 1) ≤ 24 := by split <;> omega
        exact ⟨_, .bitFetch hstate h.program hdly0 hpc hbit,
          h.of_running hstate h.program hlen rfl (show 1 ≤ 4 by decide) hle (fun _ => hpos) (.inr (.inl rfl))⟩
    case inr.inl =>
      exact ⟨_, .bitTest hstate h.program hdly0 hpc,
        h.of_running hstate h.program le_rfl rfl (show 2 ≤ 4 by decide) hcnt (fun _ => h.shifted (by omega))
          (.inr (.inr rfl))⟩
    case inr.inr =>
      exact ⟨_, .tail hstate h.program hdly0 hpc,
        h.of_running hstate h.program le_rfl rfl le_rfl hcnt (fun hpc0 => absurd rfl hpc0) (.inl rfl)⟩

/-- The LED channel's turn, from its invariant (R245). -/
theorem LedInv.step_led (h : LedInv s) (hturn : nextAgent s = .led) : ∃ t, step s = .next t ∧ LedInv t := by
  obtain ⟨l, hticks, hinv⟩ := h.ticksTo
  exact ⟨_, (step_eq_tick hturn).trans (hticks (unscheduled s) rfl), hinv.of_led rfl rfl⟩

end Kept

end Sys2Proof.Machine

namespace Sys2Proof.Proofs

open Sys2Proof.Machine

/-- Settles O53: the host's turn by `LedInv.of_command`, the channel's own by `LedInv.step_led`. -/
theorem stepKeepsLedInv : Obligations.StepKeepsLedInv := by
  intro s t hinv hport hstep
  cases hturn : nextAgent s with
  | host =>
    obtain ⟨u, v, hbefore, hmove, hafter⟩ := step_host_moves hturn (fun _ => hport.isCommand) hstep
    exact ((hinv.of_sameDrivers hbefore).of_command hmove).of_sameDrivers hafter
  | led =>
    obtain ⟨t', hstep', hinv'⟩ := hinv.step_led hturn
    cases hstep.symm.trans hstep'
    exact hinv'
  | audio =>
    obtain ⟨a, env, -, rfl⟩ := step_audio_frame hturn hstep
    exact hinv.of_led rfl rfl

end Sys2Proof.Proofs
end

section
/-! SUPPORT. The audio driver's invariant: where a RUNNING channel stands in its phase, every tick of it, and every command
(R25, R26, R72, R109, R188 to R202). -/

namespace Sys2Proof.Machine

open Sys2Proof.Claims

/-! ## Where a channel stands in its phase -/

/-- The bits taken and the loop counter before step `k` of a phase (R26, R188). -/
def PhaseCount (w : SampleWidth) (isrCnt cnt : Nat) : Nat → Prop
  | 0 => isrCnt + cnt = w.bits - 2
  | 1 => isrCnt + cnt = w.bits - 1
  | 2 => isrCnt = w.bits - 1
  | _ => isrCnt = 0

/-- The audio channel before step `k` of the left or the right phase. The queue holds an odd word from the left push, before
step 3 of the left phase, to the right one. -/
structure InPhase (a : AudioState) (right : Bool) (k : Nat) : Prop where
  step : k < 4
  index : a.pc = phaseStart right + k
  counter : a.cnt ≤ a.w.bits - 2
  count : PhaseCount a.w a.isrCnt a.cnt k
  shifter : a.isr.toNat < 2 ^ a.isrCnt
  parity : a.rxq.length % 2 = if right = decide (k < 3) then 1 else 0
  aligned : ∀ raw ∈ a.rxq, raw.toNat % 2 ^ (32 - a.w.bits) = 0
  driven : a.bclk.isSome = true ∧ a.ws.isSome = true

theorem phaseStart_cases (right : Bool) :
    phaseStart right = 0 ∧ right = false ∨ phaseStart right = 4 ∧ right = true := by
  cases right
  · exact .inl ⟨rfl, rfl⟩
  · exact .inr ⟨rfl, rfl⟩

/-- The steps before which an odd word is queued, by their phase and by their index (R72, R200). -/
theorem oddQueue_iff {right : Bool} {k pc : Nat} (hk : k < 4) (hindex : pc = phaseStart right + k) :
    right = decide (k < 3) ↔ 3 ≤ pc ∧ pc ≤ 6 := by
  obtain ⟨hstart, rfl⟩ | ⟨hstart, rfl⟩ := phaseStart_cases right
  · rw [eq_comm, decide_eq_false_iff_not]
    omega
  · rw [eq_comm, decide_eq_true_iff]
    omega

/-- A channel that meets `AudioPhase` at an index of the program stands in one of its phases. -/
theorem AudioPhase.inPhase {a : AudioState} (h : AudioPhase a) (hpc : a.pc < 8) : ∃ right k, InPhase a right k := by
  have hindex : ∃ right k, k < 4 ∧ a.pc = phaseStart right + k := by
    obtain hleft | hright := Nat.lt_or_ge a.pc 4
    · exact ⟨false, a.pc, hleft, (Nat.zero_add _).symm⟩
    · exact ⟨true, a.pc - 4, by omega, by change a.pc = 4 + (a.pc - 4); omega⟩
  obtain ⟨right, k, hk, hindex⟩ := hindex
  have hstart := phaseStart_cases right
  have hcount : PhaseCount a.w a.isrCnt a.cnt k := by
    match k with
    | 0 => exact h.sampling (by omega)
    | 1 => exact h.clocking (by omega)
    | 2 => exact h.last (by omega)
    | 3 => exact h.pushed (by omega)
  refine ⟨right, k, hk, hindex, h.counter, hcount, h.shifter, ?_, h.aligned, h.driven⟩
  exact h.parity.trans (if_congr (oddQueue_iff hk hindex).symm rfl rfl)

theorem InPhase.pc_lt {a : AudioState} {right : Bool} {k : Nat} (h : InPhase a right k) : a.pc < 8 := by
  have hstart := phaseStart_cases right
  have hk := h.step
  rw [h.index]
  omega

/-- A channel that stands in a phase meets `AudioPhase`. -/
theorem InPhase.audioPhase {a : AudioState} {right : Bool} {k : Nat} (h : InPhase a right k) : AudioPhase a := by
  have hk := h.step
  have hindex := h.index
  have hcount := h.count
  have hstart := phaseStart_cases right
  exact {
    counter := h.counter
    sampling := fun hat => by
      obtain rfl : k = 0 := by omega
      exact hcount
    clocking := fun hat => by
      obtain rfl : k = 1 := by omega
      exact hcount
    last := fun hat => by
      obtain rfl : k = 2 := by omega
      exact hcount
    pushed := fun hat => by
      obtain rfl : k = 3 := by omega
      exact hcount
    shifter := h.shifter
    parity := h.parity.trans (if_congr (oddQueue_iff hk hindex) rfl rfl)
    aligned := h.aligned
    driven := h.driven }

/-! ## The steps of a phase -/

/-- A register of `n` bits holds `n + 1` after one more (R198). -/
theorem shiftConcat_lt {isr : Word} {n : Nat} (h : isr.toNat < 2 ^ n) (bit : Bool) :
    (isr.shiftConcat bit).toNat < 2 ^ (n + 1) := by
  have hbit : bit.toNat ≤ 1 := bit.toNat_le
  rw [BitVec.toNat_shiftConcat, Nat.shiftLeft_eq, Nat.pow_succ]
  exact (Nat.mod_le _ _).trans_lt (by omega)

/-- The low 32 − W bits of a pushed word are zero (R102). -/
theorem rawWord_aligned (isr : Word) (w : SampleWidth) : (rawWord isr w).toNat % 2 ^ (32 - w.bits) = 0 := by
  rw [rawWord, BitVec.toNat_shiftLeft, Nat.shiftLeft_eq]
  cases w <;> simp only [SampleWidth.bits] <;> omega

section Steps
variable {a : AudioState} {right : Bool}

/-- After `smp` (R190, R194). -/
theorem InPhase.smp (h : InPhase a right 0) (bit : Bool) : InPhase { a with
    bclk := some false, ws := some right, isr := a.isr.shiftConcat bit, isrCnt := a.isrCnt + 1,
    pc := phaseStart right + 1 } right 1 where
  step := by decide
  index := rfl
  counter := h.counter
  count := by
    have hwidth := two_le_bits a.w
    have hcount : a.isrCnt + a.cnt = a.w.bits - 2 := h.count
    change a.isrCnt + 1 + a.cnt = a.w.bits - 1
    omega
  shifter := shiftConcat_lt h.shifter bit
  parity := h.parity
  aligned := h.aligned
  driven := ⟨rfl, rfl⟩

/-- After `clk` with the counter above zero (R191, R195). -/
theorem InPhase.clk_back (h : InPhase a right 1) (hcnt : a.cnt ≠ 0) : InPhase { a with
    bclk := some true, ws := some right, cnt := a.cnt - 1, pc := phaseStart right } right 0 where
  step := by decide
  index := rfl
  counter := (Nat.sub_le _ _).trans h.counter
  count := by
    have hcount : a.isrCnt + a.cnt = a.w.bits - 1 := h.count
    change a.isrCnt + (a.cnt - 1) = a.w.bits - 2
    omega
  shifter := h.shifter
  parity := h.parity
  aligned := h.aligned
  driven := ⟨rfl, rfl⟩

/-- After `clk` with the counter at zero (R191, R195). -/
theorem InPhase.clk_out (h : InPhase a right 1) (hcnt : a.cnt = 0) : InPhase { a with
    bclk := some true, ws := some right, pc := phaseStart right + 2 } right 2 where
  step := by decide
  index := rfl
  counter := h.counter
  count := by
    have hcount : a.isrCnt + a.cnt = a.w.bits - 1 := h.count
    rwa [hcnt] at hcount
  shifter := h.shifter
  parity := h.parity
  aligned := h.aligned
  driven := ⟨rfl, rfl⟩

/-- After `last_smp` with room in the queue: one word more is queued (R192, R196, R198). -/
theorem InPhase.lastSmp (h : InPhase a right 2) (isr : Word) : InPhase { a with
    bclk := some false, ws := some !right, isr := 0#32, isrCnt := 0, rxq := a.rxq ++ [rawWord isr a.w],
    pc := phaseStart right + 3 } right 3 where
  step := by decide
  index := rfl
  counter := h.counter
  count := rfl
  shifter := Nat.one_pos
  parity := by
    have hparity := h.parity
    rw [List.length_append, List.length_singleton, Nat.add_mod, hparity]
    cases right <;> rfl
  aligned := by
    intro raw hraw
    obtain hold | hnew := List.mem_append.mp hraw
    · exact h.aligned raw hold
    · obtain rfl := List.mem_singleton.mp hnew
      exact rawWord_aligned isr a.w
  driven := ⟨rfl, rfl⟩

/-- A stalled `last_smp` stays where it is (R202). -/
theorem InPhase.stall (h : InPhase a right 2) : InPhase { a with bclk := some false, ws := some !right } right 2 :=
  { h with driven := ⟨rfl, rfl⟩ }

/-- After `last_clk` (R193, R197). -/
theorem InPhase.lastClk (h : InPhase a right 3) : InPhase { a with
    bclk := some true, ws := some !right, cnt := a.w.bits - 2, pc := phaseStart !right } (!right) 0 where
  step := by decide
  index := rfl
  counter := le_rfl
  count := by
    have hcount : a.isrCnt = 0 := h.count
    change a.isrCnt + (a.w.bits - 2) = a.w.bits - 2
    omega
  shifter := h.shifter
  parity := by
    rw [h.parity]
    cases right <;> rfl
  aligned := h.aligned
  driven := ⟨rfl, rfl⟩

end Steps

/-! ## Ticks that depend on the channel and the DATA line alone -/

/-- A tick takes the audio channel from `a` to `a'` and draws `drawn` DATA bits, whatever the rest of the state, if the
DATA line is at `bit` (R80, R199). -/
def AudioTicksTo (a : AudioState) (bit : Bool) (a' : AudioState) (drawn : Nat) : Prop :=
  ∀ u : State, u.aud = a → dataLevel u = bit → tick .audio u = .next (audLater u a' drawn 1)

/-- A stalled `last_smp`: BCLK low, WS for the other phase (R202). -/
theorem tick_lastSmp_stalls {s : State} {right : Bool} (h : AtPhaseStep s.aud right 2)
    (hlast : s.aud.isrCnt = s.aud.w.bits - 1) (hfull : s.aud.rxq.length = 8) :
    tick .audio s = .next (audLater s { s.aud with bclk := some false, ws := some !right } 0 1) := by
  rw [h.tick_eq (audioProgram_lastSmp _ _) rfl,
    exec_seqSample_stalls (s := audLater s s.aud 0 1) _ _ _ hlast hfull, driveAudio_eq, audLater_aud,
    audioSide_getLsbD_zero, audioSide_getLsbD_one]
  rfl

theorem AudioTicksTo.uninit {a : AudioState} {bit : Bool} (huninit : a.state = .uninit) : AudioTicksTo a bit a 0 := by
  rintro u rfl -
  exact step_audio_of_uninit (s := grantTurn .audio u) rfl huninit

/-- A RUNNING channel in its phase ticks to the next step of it, or stalls (R188 to R202). -/
theorem InPhase.ticks {a : AudioState} {right : Bool} {k : Nat} (h : InPhase a right k) (hrun : a.state = .running)
    (hprog : a.prog = audioProgram a.w) (hdepth : a.rxq.length ≤ 8) (bit : Bool) :
    ∃ a' drawn right' k', InPhase a' right' k' ∧ AudioKept a a' ∧ a'.rxq.length ≤ 8 ∧ AudioTicksTo a bit a' drawn := by
  have hat : AtPhaseStep a right k := ⟨hrun, hprog, h.index⟩
  have hwidth := two_le_bits a.w
  match k with
  | 0 =>
    have hcount : a.isrCnt + a.cnt = a.w.bits - 2 := h.count
    refine ⟨_, 1, _, _, h.smp bit, ⟨_, _, _, _, _, _, _, rfl⟩, hdepth, ?_⟩
    rintro u rfl rfl
    exact tick_smp hat (by omega)
  | 1 =>
    by_cases hcnt : a.cnt = 0
    · refine ⟨_, 0, _, _, h.clk_out hcnt, ⟨_, _, _, _, _, _, _, rfl⟩, hdepth, ?_⟩
      rintro u rfl -
      exact tick_clk_out hat hcnt
    · refine ⟨_, 0, _, _, h.clk_back hcnt, ⟨_, _, _, _, _, _, _, rfl⟩, hdepth, ?_⟩
      rintro u rfl -
      exact tick_clk_back hat hcnt
  | 2 =>
    have hlast : a.isrCnt = a.w.bits - 1 := h.count
    by_cases hfull : a.rxq.length = 8
    · refine ⟨_, 0, _, _, h.stall, ⟨_, _, _, _, _, _, _, rfl⟩, hdepth, ?_⟩
      rintro u rfl -
      exact tick_lastSmp_stalls hat hlast hfull
    · have hdepth' : (a.rxq ++ [rawWord (a.isr.shiftConcat bit) a.w]).length ≤ 8 := by
        rw [List.length_append]
        exact Nat.lt_of_le_of_ne hdepth hfull
      refine ⟨_, 1, _, _, h.lastSmp (a.isr.shiftConcat bit), ⟨_, _, _, _, _, _, _, rfl⟩, hdepth', ?_⟩
      rintro u rfl rfl
      exact tick_lastSmp hat (by omega) hfull
  | 3 =>
    refine ⟨_, 0, _, _, h.lastClk, ⟨_, _, _, _, _, _, _, rfl⟩, hdepth, ?_⟩
    rintro u rfl -
    exact tick_lastClk hat
  | k + 4 => exact absurd h.step (by omega)

/-! ## The two stalls -/

/-- The LED channel stalls at a `bit_fetch` with nothing to send (R29). -/
theorem ledStalled_iff {s : State} : ledStalled s = true ↔
    s.led.state = .running ∧ s.led.pc = 0 ∧ s.led.dly = 0 ∧ s.led.osrCnt = 24 ∧ s.led.txq = [] := by
  simp only [ledStalled, txqEmpty, Bool.and_eq_true, beq_iff_eq, Config.pixelBits, List.length_eq_zero_iff, and_assoc]

/-- The audio channel stalls before a push into the full queue (R29). -/
theorem audStalled_iff {s : State} : audStalled s = true ↔
    s.aud.state = .running ∧ (s.aud.pc = 2 ∨ s.aud.pc = 6) ∧ s.aud.isrCnt = s.aud.w.bits - 1 ∧
      s.aud.rxq.length = 8 := by
  simp only [audStalled, rxqFull, Bool.and_eq_true, Bool.or_eq_true, beq_iff_eq, Config.rxqDepth, and_assoc]

/-! ## The invariant -/

section Kept
variable {s t : State}

/-- The audio driver's invariant reads that driver only. -/
theorem AudioInv.of_aud (h : AudioInv s) (haud : t.aud = s.aud) : AudioInv t where
  program := haud ▸ h.program
  depth := haud ▸ h.depth
  index := haud ▸ h.index
  undriven := haud ▸ h.undriven
  phase := haud ▸ h.phase

theorem AudioInv.of_sameDrivers (h : AudioInv s) (hsame : SameDrivers s t) : AudioInv t := by
  obtain ⟨_, _, _, rfl⟩ := hsame
  exact h.of_aud rfl

/-- A RUNNING channel that stands in a phase, with its program and no more words than the queue holds. -/
theorem AudioInv.of_inPhase {right : Bool} {k : Nat} (hrun : t.aud.state = .running)
    (hprog : t.aud.prog = audioProgram t.aud.w) (hdepth : t.aud.rxq.length ≤ 8) (h : InPhase t.aud right k) :
    AudioInv t where
  program := hprog
  depth := hdepth
  index := h.pc_lt
  undriven := fun huninit => absurd hrun (Lifecycle.ne_running huninit)
  phase := fun _ => h.audioPhase

theorem AudioInv.inPhase (h : AudioInv s) (hrun : s.aud.state = .running) : ∃ right k, InPhase s.aud right k :=
  (h.phase hrun).inPhase h.index

/-- No command takes the audio driver out of its invariant: a read pops a whole frame, a commit starts afresh (R72, R170,
R172). -/
theorem AudioInv.of_command (h : AudioInv s) (hmove : CommandMove s t) : AudioInv t := by
  cases hmove with
  | stays => exact h
  | pushes | ledInit => exact h.of_aud rfl
  | @pops l r rest hrun hq =>
    obtain ⟨right, k, hin⟩ := h.inPhase hrun
    have hlen : s.aud.rxq.length = rest.length + 2 := by rw [hq]; rfl
    have hdepth := h.depth
    refine .of_inPhase (right := right) (k := k) hrun h.program (show rest.length ≤ 8 by omega) { hin with
      parity := ?_, aligned := fun raw hraw => hin.aligned raw ?_ }
    · rw [← hin.parity, hlen, Nat.add_mod_right]
      rfl
    · rw [hq]
      exact List.mem_cons_of_mem _ (List.mem_cons_of_mem _ hraw)
  | @audInit rate w ch hcheck =>
    exact .of_inPhase (right := false) (k := 0) rfl rfl (Nat.zero_le _) {
      step := by decide
      index := rfl
      counter := le_rfl
      count := Nat.zero_add _
      shifter := Nat.one_pos
      parity := rfl
      aligned := nofun
      driven := ⟨rfl, rfl⟩ }

/-- From its invariant the audio channel ticks, whatever the rest of the state and the DATA line, and keeps it (R188 to
R202). -/
theorem AudioInv.ticksTo (h : AudioInv s) (bit : Bool) :
    ∃ a drawn, AudioTicksTo s.aud bit a drawn ∧ AudioInv (s.setAud a) := by
  cases hstate : s.aud.state with
  | uninit => exact ⟨_, 0, .uninit hstate, h⟩
  | running =>
    obtain ⟨right, k, hin⟩ := h.inPhase hstate
    obtain ⟨a, drawn, right', k', hin', ⟨_, _, _, _, _, _, _, rfl⟩, hdepth, hticks⟩ :=
      hin.ticks hstate h.program h.depth bit
    exact ⟨_, drawn, hticks, .of_inPhase hstate h.program hdepth hin'⟩

/-- The audio channel's turn, from its invariant (R245). -/
theorem AudioInv.step_audio (h : AudioInv s) (hturn : nextAgent s = .audio) : ∃ t, step s = .next t ∧ AudioInv t := by
  obtain ⟨a, drawn, hticks, hinv⟩ := h.ticksTo (dataLevel (unscheduled s))
  exact ⟨_, (step_eq_tick hturn).trans (hticks (unscheduled s) rfl rfl), hinv.of_aud rfl⟩

end Kept

end Sys2Proof.Machine

namespace Sys2Proof.Proofs

open Sys2Proof.Machine

/-- Settles O54: the host's turn by `AudioInv.of_command`, the channel's own by `AudioInv.step_audio`. -/
theorem stepKeepsAudioInv : Obligations.StepKeepsAudioInv := by
  intro s t hinv hport hstep
  cases hturn : nextAgent s with
  | host =>
    obtain ⟨u, v, hbefore, hmove, hafter⟩ := step_host_moves hturn (fun _ => hport.isCommand) hstep
    exact ((hinv.of_sameDrivers hbefore).of_command hmove).of_sameDrivers hafter
  | led =>
    obtain ⟨l, env, -, rfl⟩ := step_led_frame hturn hstep
    exact hinv.of_aud rfl
  | audio =>
    obtain ⟨t', hstep', hinv'⟩ := hinv.step_audio hturn
    cases hstep.symm.trans hstep'
    exact hinv'

/-- Settles O57: the host's turn never stops the machine, a channel's does not from its driver's invariant. -/
theorem invariantStepsOn : Obligations.InvariantStepsOn := by
  intro s hled haud
  cases hturn : nextAgent s with
  | host => exact stepsOn_of_host hturn
  | led =>
    obtain ⟨t, hstep, -⟩ := hled.step_led hturn
    exact ⟨t, hstep⟩
  | audio =>
    obtain ⟨t, hstep, -⟩ := haud.step_audio hturn
    exact ⟨t, hstep⟩

/-- Settles O60: what each channel's tick does depends on that channel and the DATA line alone (`LedInv.ticksTo`,
`AudioInv.ticksTo`), so that the other tick before it makes no difference. -/
theorem channelTicksCommute : Obligations.ChannelTicksCommute := by
  intro s hled haud
  obtain ⟨l, hledTicks, -⟩ := hled.ticksTo
  obtain ⟨a, drawn, haudTicks, -⟩ := haud.ticksTo (dataLevel s)
  exact ⟨_, _, _, hledTicks s rfl, haudTicks s rfl rfl, haudTicks (ledLater s l 1) rfl rfl,
    hledTicks (audLater s a drawn 1) rfl⟩

/-- Settles O46: the LED channel stalls at `bit_fetch` (`LedTicksTo.stalled`), the audio channel at the `last_smp` of either
phase (`tick_lastSmp_stalls`). -/
theorem stalledTickDrivesOnlyPins : Obligations.StalledTickDrivesOnlyPins := by
  refine ⟨fun s hstalled hprog => ?_, fun s hstalled hprog => ?_⟩
  · obtain ⟨hrun, hpc, hdly, hcnt, hq⟩ := ledStalled_iff.mp hstalled
    exact LedTicksTo.stalled hrun hprog hdly hpc hcnt hq s rfl
  · obtain ⟨hrun, hpc, hlast, hfull⟩ := audStalled_iff.mp hstalled
    have hat : AtPhaseStep s.aud (decide (s.aud.pc = 6)) 2 := by
      refine ⟨hrun, hprog, ?_⟩
      obtain hpc | hpc := hpc <;> rw [hpc] <;> rfl
    have hws : (!decide (s.aud.pc = 6)) = decide (s.aud.pc = 2) := by
      obtain hpc | hpc := hpc <;> rw [hpc] <;> rfl
    rw [← hws]
    exact tick_lastSmp_stalls hat hlast hfull

end Sys2Proof.Proofs
end

section
/-! SUPPORT. The LED driver's commands: the commit of LED_INIT, one push of FILL and CLEAR, a whole FILL, the holds (R140 to
R144, R231). -/

namespace Sys2Proof.Machine

open Sys2Proof.Claims

/-! ## LED_INIT -/

/-- The channel claimed is the free one below which none is free (R243). -/
theorem freeChannel_of_least {s : State} {ch : Nat} (hfree : s.chanClaimed[ch]? = some false)
    (hbelow : ∀ j < ch, s.chanClaimed[j]? = some true) : freeChannel s = some ch := by
  obtain ⟨hlt, hch⟩ := List.getElem?_eq_some_iff.mp hfree
  rw [freeChannel, List.findIdx?_eq_some_iff_getElem]
  refine ⟨hlt, by rw [hch]; rfl, fun j hj => ?_⟩
  obtain ⟨_, hj'⟩ := List.getElem?_eq_some_iff.mp (hbelow j hj)
  rw [hj']
  decide

theorem clockLegal_of_legal {ovr clk : Word}
    (h : ovr = 0#32 ∧ clk ≠ 0#32 ∨ ovr ≠ 0#32 ∧ fpIsFinite ovr ∧ 0 < fpValue ovr) : ¬ clockLegal ovr clk = false := by
  rw [clockLegal_eq_false_iff]
  tauto

theorem not_pinIsClaimed {s : State} {n : Nat} (h : s.pinClaimed[n]? = some false) : ¬ pinIsClaimed s n = true := by
  rw [pinIsClaimed_iff, h]
  decide

theorem ledInitCheck_of_legal {s : State} {ch : Nat} (hstate : s.led.state ≠ .running)
    (hpin : s.pinClaimed[s.cfg.ledPin.toNat]? = some false) (hchan : freeChannel s = some ch)
    (hclock : ¬ clockLegal s.cfg.ledDivOvr s.cfg.sysClkHz = false) : ledInitCheck s = .ok ch := by
  rw [ledInitCheck, if_neg hstate, if_neg (not_nGpio_le hpin), if_neg hclock, if_neg (not_pinIsClaimed hpin), hchan]

theorem exec_ledInit_of_ok {s : State} {ch : Nat} (h : ledInitCheck s = .ok ch) :
    exec .ledInit s = .next (respond .ok [] (ledCommit ch s)) := by
  change execLedInit s = _
  rw [execLedInit, h]

/-! ## Pushes -/

section Fill
variable {i : Instr} {word : Word} {s : State}

theorem txqHasRoom_of_lt (h : s.led.txq.length < s.par.txqDepth) : txqHasRoom s = true := decide_eq_true h

theorem txqHasRoom_of_full (h : s.led.txq.length = s.par.txqDepth) : ¬ txqHasRoom s = true := by
  rw [txqHasRoom, decide_eq_true_iff, h]
  exact lt_irrefl _

variable (hrun : s.led.state = .running)
include hrun

/-- With no push due the answer comes at once (R143). -/
theorem fillLine_of_done (h : s.led.count.toNat ≤ s.port.idx) : fillLine i word s = .next (respond .ok [] s) := by
  rw [fillLine, if_neg (not_not_intro hrun), if_pos h]

/-- The last push and the answer (R143; log 10). -/
theorem fillLine_of_last (h : s.port.idx + 1 = s.led.count.toNat) (hroom : s.led.txq.length < s.par.txqDepth) :
    fillLine i word s = .next (respond .ok [] (pushTx word s)) := by
  rw [fillLine, if_neg (not_not_intro hrun), if_neg (by omega), if_pos (txqHasRoom_of_lt hroom), if_pos h]

/-- A push that is not the last (R143; log 10). -/
theorem fillLine_of_more (h : s.port.idx + 1 < s.led.count.toNat) (hroom : s.led.txq.length < s.par.txqDepth) :
    fillLine i word s = .next (progress i (s.port.idx + 1) [] (pushTx word s)) := by
  rw [fillLine, if_neg (not_not_intro hrun), if_neg (by omega), if_pos (txqHasRoom_of_lt hroom), if_neg (by omega)]

/-- The hold while the queue is full (R15, R143). -/
theorem fillLine_of_full (h : s.port.idx < s.led.count.toNat) (hfull : s.led.txq.length = s.par.txqDepth) :
    fillLine i word s = .next (hold i s) := by
  rw [fillLine, if_neg (not_not_intro hrun), if_neg (by omega), if_neg (txqHasRoom_of_full hfull)]

theorem pushPixel_of_full (rgb : BitVec 24) (hfull : s.led.txq.length = s.par.txqDepth) :
    pushPixel i rgb s = .next (hold i s) := by
  rw [pushPixel, if_neg (not_not_intro hrun), if_neg (txqHasRoom_of_full hfull)]

end Fill

/-- A command of the LED driver is answered E_NOTINIT while the driver is UNINIT (R231). -/
theorem exec_of_ledUninit {i : Instr} {s : State} (hi : needsLed i = true) (huninit : s.led.state = .uninit) :
    exec i s = .next (raiseError .eNotInit s) := by
  have hstate := Lifecycle.ne_running huninit
  cases i with
  | setColor | setRgb | fill | clear => exact if_pos hstate
  | _ => cases hi

/-! ## Runs of host turns -/

/-- A host turn with a command pending goes on with it (R246). -/
theorem tick_host_of_pending {s : State} {i : Instr} (hpend : s.port.pending = some i) :
    tick .host s = exec i { s with env := oneTurn s.env } :=
  step_of_pending (s := grantTurn .host s) rfl hpend

/-- A host turn with an IDLE port runs the command that waits there (R81). -/
theorem tick_host_of_instr {s : State} {i : Instr} {rest : List Word} (hidle : s.port.pending = none)
    (hdec : decodePacket s.port.incoming = .instr i rest) :
    tick .host s = exec i { s with port := { s.port with incoming := rest }, env := oneTurn s.env } :=
  step_of_instr (s := grantTurn .host s) ⟨rfl, hidle, rfl⟩ hdec

/-- FILL's packet (R93). -/
theorem decodePacket_fill (r g b : BitVec 8) (ws : List Word) :
    decodePacket ((0x13#8 ++ r ++ g ++ b : Word) :: ws) = .instr (.fill (r ++ g ++ b)) ws := by
  rw [header_append_three]
  exact decodePacket_header ..

/-- FILL with `n + 1` pushes due and room for them all: as many host turns push the word and answer OK once, whether its
first turn takes the packet or goes on (R143; log 10). -/
theorem ticks_fill {rgb : BitVec 24} {n : Nat} {s u : State} (hturn : tick .host s = exec (.fill rgb) u)
    (hrun : u.led.state = .running) (hdue : u.port.idx + (n + 1) = u.led.count.toNat)
    (hroom : u.led.txq.length + (n + 1) ≤ u.par.txqDepth) :
    ticks .host (n + 1) s = some { u with
      led := { u.led with txq := u.led.txq ++ List.replicate (n + 1) (pixelWord rgb) }
      port := answered u.port .ok []
      env := { u.env with turns := u.env.turns + n } } := by
  induction n generalizing s u with
  | zero =>
    have hlast := hturn.trans (fillLine_of_last hrun hdue (by omega))
    exact ticks_succ hlast 0
  | succ n ih =>
    have hmore := hturn.trans (fillLine_of_more hrun (by omega) (by omega))
    have hlen : (u.led.txq ++ [pixelWord rgb]).length + (n + 1) ≤ u.par.txqDepth := by
      rw [List.length_append, List.length_singleton]
      omega
    have hpend := progress_pending [] (.fill rgb) (u.port.idx + 1) (pushTx (pixelWord rgb) u)
    have hrest := ih (tick_host_of_pending hpend) hrun
      (show u.port.idx + 1 + (n + 1) = u.led.count.toNat by omega) hlen
    rw [ticks_succ hmore, hrest]
    simp only [progress_eq, pushTx_eq, answered, oneTurn, List.append_assoc, List.singleton_append,
      List.replicate_succ, Nat.add_assoc, Nat.add_comm 1]

end Sys2Proof.Machine

namespace Sys2Proof.Proofs

open Sys2Proof.Machine Sys2Proof.Claims

/-- Settles O17. -/
theorem driverCommandsNeedInit : Obligations.DriverCommandsNeedInit := by
  rintro i s (⟨hi, huninit⟩ | ⟨hi, huninit⟩)
  · exact exec_of_ledUninit hi huninit
  · exact exec_of_audUninit hi huninit

/-- Settles O23. -/
theorem ledInitCommits : Obligations.LedInitCommits := by
  intro s ch huninit hpin hfree hbelow hclock
  exact exec_ledInit_of_ok (ledInitCheck_of_legal (Lifecycle.ne_running huninit) hpin
    (freeChannel_of_least hfree hbelow) (clockLegal_of_legal hclock))

/-- Settles O26. -/
theorem fullQueueHolds : Obligations.FullQueueHolds := by
  intro s i hi hrun hfull hdue
  cases i with
  | setColor rgb => exact pushPixel_of_full hrun rgb hfull
  | setRgb r g b => exact pushPixel_of_full hrun (rgbOf r g b) hfull
  | fill rgb => exact fillLine_of_full hrun (hdue (.inl ⟨rgb, rfl⟩)) hfull
  | clear => exact fillLine_of_full hrun (hdue (.inr rfl)) hfull
  | _ => cases hi

/-- Settles O27: FILL is `fillLine` of the pixel word, CLEAR of zero. -/
theorem fillLinePushes : Obligations.FillLinePushes := by
  intro s r g b hrun pushed color
  have hword : pixelWord (r ++ g ++ b) = color := pixelWord_append r g b
  have hfill : exec (.fill (r ++ g ++ b)) s = fillLine (.fill (r ++ g ++ b)) color s := by
    rw [← hword]
    rfl
  rw [hfill]
  refine ⟨fun hdone => ⟨fillLine_of_done hrun hdone, fillLine_of_done hrun hdone⟩,
    fun hlast hroom => ⟨fillLine_of_last hrun hlast hroom, fillLine_of_last hrun hlast hroom⟩,
    fun hmore hroom => ⟨?_, ?_⟩⟩
  · exact fillLine_of_more hrun hmore hroom
  · exact fillLine_of_more hrun hmore hroom

/-- Settles O28: `ticks_fill` from the turn that takes the packet. -/
theorem wholeFillPushesCountWords : Obligations.WholeFillPushesCountWords := by
  intro s r g b rest hrun hidle hidx hemitted hwords hcount hroom
  obtain ⟨n, hn⟩ := Nat.exists_eq_add_one_of_ne_zero hcount.ne'
  have hturn := tick_host_of_instr hidle (hwords ▸ decodePacket_fill r g b rest)
  have hdue : s.port.idx + (n + 1) = s.led.count.toNat := by rw [hidx, hn, Nat.zero_add]
  rw [hn] at hroom ⊢
  rw [ticks_fill hturn hrun hdue hroom, pixelWord_append, Nat.add_comm n 1, ← Nat.add_assoc]
  rfl

end Sys2Proof.Proofs
end

section
/-! SUPPORT. The audio driver's commands: the commit of AUD_INIT, the reads of a short queue, one read of a buffer, a whole
READ_SAMPLES (R170 to R176). -/

namespace Sys2Proof.Machine

open Sys2Proof.Claims

/-! ## AUD_INIT -/

theorem rateOfNat_hz (rate : SampleRate) : rateOfNat rate.hz = some rate := by cases rate <;> rfl

theorem widthOfNat_bits (w : SampleWidth) : widthOfNat w.bits = some w := by cases w <;> rfl

theorem exec_audInit_of_ok {s : State} {rate : SampleRate} {w : SampleWidth} {ch : Nat}
    (h : audInitCheck s = .ok (rate, w, ch)) :
    exec .audInit s = .next (respond .ok [] (audioCommit rate w ch s)) := by
  change execAudInit s = _
  rw [execAudInit, h]

/-- Every check of R234 passed (R170). -/
theorem audInitCheck_of_legal {s : State} {rate : SampleRate} {w : SampleWidth} {ch : Nat}
    (hstate : s.aud.state ≠ .running) (hrate : s.cfg.audRateHz.toNat = rate.hz) (hwidth : s.cfg.audBits.toNat = w.bits)
    (hpins : ¬ pinsContiguous s.cfg = false) (hrange : ¬ nGpio s ≤ s.cfg.audDataPin.toNat)
    (hclock : ¬ clockLegal s.cfg.audDivOvr s.cfg.sysClkHz = false) (hfree : ¬ audioPinBusy s = true)
    (hchan : freeChannel s = some ch) : audInitCheck s = .ok (rate, w, ch) := by
  simp only [audInitCheck, if_neg hstate, hrate, rateOfNat_hz, hwidth, widthOfNat_bits, if_neg hpins, if_neg hrange,
    if_neg hclock, if_neg hfree, hchan]

/-! ## Reads of a short queue -/

section Short
variable {s : State} (hrun : s.aud.state = .running) (hshort : readFrame s = none)
include hrun hshort

theorem exec_readStereo_of_short : exec .readStereo s = .next (hold .readStereo s) := by
  change execReadStereo s = _
  rw [execReadStereo, if_neg (not_not_intro hrun), hshort]

theorem exec_readMono_of_short : exec .readMono s = .next (hold .readMono s) := by
  change execReadMono s = _
  rw [execReadMono, if_neg (not_not_intro hrun), hshort]

theorem exec_readStereoNb_of_short : exec .readStereoNb s = .next (respond .noData [] s) := by
  change execReadStereoNb s = _
  rw [execReadStereoNb, if_neg (not_not_intro hrun), hshort]

theorem exec_readSamples_of_short {n : BitVec 24} (hmore : s.port.idx < n.toNat) :
    exec (.readSamples n) s = .next (hold (.readSamples n) s) := by
  change execReadSamples n s = _
  rw [execReadSamples, if_neg (not_not_intro hrun), if_neg (Nat.not_le.mpr hmore), hshort]

/-- READ_SAMPLES_AVAIL answers what it has, whether a read is due or not (R176). -/
theorem exec_readSamplesAvail_of_short (n : BitVec 24) :
    exec (.readSamplesAvail n) s = .next (respond .ok (countWord s.port.idx :: s.port.emitted) s) := by
  change execReadSamplesAvail n s = _
  rw [execReadSamplesAvail, if_neg (not_not_intro hrun), hshort]
  exact ite_self _

end Short

/-! ## One read of a buffer -/

section Buffer
variable {s t : State} {n : BitVec 24} {l r : Word} (hrun : s.aud.state = .running)
include hrun

theorem exec_readSamples_of_done (h : n.toNat ≤ s.port.idx) :
    exec (.readSamples n) s = .next (respond .ok s.port.emitted s) := by
  change execReadSamples n s = _
  rw [execReadSamples, if_neg (not_not_intro hrun), if_pos h]

theorem exec_readSamplesAvail_of_done (h : n.toNat ≤ s.port.idx) :
    exec (.readSamplesAvail n) s = .next (respond .ok (countWord s.port.idx :: s.port.emitted) s) := by
  change execReadSamplesAvail n s = _
  rw [execReadSamplesAvail, if_neg (not_not_intro hrun), if_pos h]

variable (hframe : readFrame s = some (l, r, t))
include hframe

/-- The last read and the answer (R175; log 10). -/
theorem exec_readSamples_of_last (h : s.port.idx + 1 = n.toNat) :
    exec (.readSamples n) s = .next (respond .ok (s.port.emitted ++ [l, r]) t) := by
  change execReadSamples n s = _
  simp only [execReadSamples, if_neg (not_not_intro hrun), if_neg (show ¬ n.toNat ≤ s.port.idx by omega), hframe,
    if_pos h]

/-- A read that is not the last (R175; log 10). -/
theorem exec_readSamples_of_more (h : s.port.idx + 1 < n.toNat) :
    exec (.readSamples n) s = .next (progress (.readSamples n) (s.port.idx + 1) [l, r] t) := by
  change execReadSamples n s = _
  simp only [execReadSamples, if_neg (not_not_intro hrun), if_neg (show ¬ n.toNat ≤ s.port.idx by omega), hframe,
    if_neg h.ne]

theorem exec_readSamplesAvail_of_last (h : s.port.idx + 1 = n.toNat) :
    exec (.readSamplesAvail n) s =
      .next (respond .ok (countWord (s.port.idx + 1) :: (s.port.emitted ++ [l, r])) t) := by
  change execReadSamplesAvail n s = _
  simp only [execReadSamplesAvail, if_neg (not_not_intro hrun), if_neg (show ¬ n.toNat ≤ s.port.idx by omega), hframe,
    if_pos h]

theorem exec_readSamplesAvail_of_more (h : s.port.idx + 1 < n.toNat) :
    exec (.readSamplesAvail n) s = .next (progress (.readSamplesAvail n) (s.port.idx + 1) [l, r] t) := by
  change execReadSamplesAvail n s = _
  simp only [execReadSamplesAvail, if_neg (not_not_intro hrun), if_neg (show ¬ n.toNat ≤ s.port.idx by omega), hframe,
    if_neg h.ne]

end Buffer

/-- A stereo read of a queue with a frame at its head (R172). -/
theorem readFrame_of_cons {s : State} {rawL rawR : Word} {rest : List Word} (hq : s.aud.rxq = rawL :: rawR :: rest) :
    readFrame s =
      some (convertRaw rawL s.aud.w, convertRaw rawR s.aud.w, { s with aud := { s.aud with rxq := rest } }) :=
  readFrame_eq_some.mpr ⟨rawL, rawR, rest, hq, rfl, rfl, rfl⟩

/-! ## A whole READ_SAMPLES -/

/-- READ_SAMPLES's packet (R93). -/
theorem decodePacket_readSamples (n : BitVec 24) (ws : List Word) :
    decodePacket ((0x25#8 ++ n : Word) :: ws) = .instr (.readSamples n) ws :=
  decodePacket_header ..

theorem convertedWords_cons_cons (w : SampleWidth) (rawL rawR : Word) (raws : List Word) :
    convertedWords w (rawL :: rawR :: raws) = [convertRaw rawL w, convertRaw rawR w] ++ convertedWords w raws := rfl

theorem exists_frame {q : List Word} (h : 2 ≤ q.length) : ∃ rawL rawR rest, q = rawL :: rawR :: rest := by
  match q with
  | rawL :: rawR :: rest => exact ⟨rawL, rawR, rest, rfl⟩
  | [_] | [] => simp at h

/-- READ_SAMPLES with `k + 1` reads due and as many frames queued: as many host turns pop them and answer OK once, with what
was emitted before and their samples, whether its first turn takes the packet or goes on (R175; log 10). -/
theorem ticks_readSamples {n : BitVec 24} {k : Nat} {s u : State} (hturn : tick .host s = exec (.readSamples n) u)
    (hrun : u.aud.state = .running) (hdue : u.port.idx + (k + 1) = n.toNat) (hlen : 2 * (k + 1) ≤ u.aud.rxq.length) :
    ticks .host (k + 1) s = some { u with
      aud := { u.aud with rxq := u.aud.rxq.drop (2 * (k + 1)) }
      port := answered u.port .ok (u.port.emitted ++ convertedWords u.aud.w (u.aud.rxq.take (2 * (k + 1))))
      env := { u.env with turns := u.env.turns + k } } := by
  induction k generalizing s u with
  | zero =>
    obtain ⟨rawL, rawR, rest, hq⟩ := exists_frame (q := u.aud.rxq) (by omega)
    have hlast := hturn.trans (exec_readSamples_of_last hrun (readFrame_of_cons hq) hdue)
    rw [ticks_succ hlast, hq]
    rfl
  | succ k ih =>
    obtain ⟨rawL, rawR, rest, hq⟩ := exists_frame (q := u.aud.rxq) (by omega)
    have hmore := hturn.trans (exec_readSamples_of_more hrun (readFrame_of_cons hq) (by omega))
    have hpend := progress_pending [convertRaw rawL u.aud.w, convertRaw rawR u.aud.w] (.readSamples n) (u.port.idx + 1)
      { u with aud := { u.aud with rxq := rest } }
    have hlen' : 2 * (k + 1) ≤ rest.length := by
      rw [hq, List.length_cons, List.length_cons] at hlen
      omega
    have hrest := ih (tick_host_of_pending hpend) hrun (show u.port.idx + 1 + (k + 1) = n.toNat by omega) hlen'
    rw [ticks_succ hmore, hrest, hq, Nat.mul_succ 2 (k + 1), List.drop_succ_cons, List.drop_succ_cons,
      List.take_succ_cons, List.take_succ_cons, convertedWords_cons_cons]
    simp only [progress_eq, answered, oneTurn, List.append_assoc, Nat.add_assoc, Nat.add_comm 1]

end Sys2Proof.Machine

namespace Sys2Proof.Proofs

open Sys2Proof.Machine Sys2Proof.Claims

/-- Settles O29. -/
theorem audInitCommits : Obligations.AudInitCommits := by
  intro s ch rate w huninit hrate hwidth hws hdata hclkFree hwsFree hdataFree hfree hbelow hclock
  have hpins : ¬ pinsContiguous s.cfg = false := by
    rw [pinsContiguous_eq_false_iff]
    omega
  have hbusy : ¬ audioPinBusy s = true := by
    rw [audioPinBusy_iff, hclkFree, hwsFree, hdataFree]
    decide
  exact exec_audInit_of_ok (audInitCheck_of_legal (Lifecycle.ne_running huninit) hrate hwidth hpins
    (not_nGpio_le hdataFree) (clockLegal_of_legal hclock) hbusy (freeChannel_of_least hfree hbelow))

/-- Settles O33. -/
theorem shortQueueReads : Obligations.ShortQueueReads := by
  intro s n hrun hlen
  have hshort : readFrame s = none := readFrame_eq_none.mpr hlen
  exact ⟨exec_readStereo_of_short hrun hshort, exec_readMono_of_short hrun hshort,
    exec_readSamples_of_short hrun hshort, exec_readStereoNb_of_short hrun hshort,
    exec_readSamplesAvail_of_short hrun hshort n⟩

/-- Settles O34: no read due, the last one, or one of more. -/
theorem bufferReadLine : Obligations.BufferReadLine := by
  refine fun s n hrun => ⟨fun hdone => ⟨exec_readSamples_of_done hrun hdone, exec_readSamplesAvail_of_done hrun hdone⟩,
    fun rawL rawR rest hq hdue => ?_⟩
  have hframe := readFrame_of_cons hq
  refine ⟨_, _, convertRaw_toInt rawL s.aud.w, convertRaw_toInt rawR s.aud.w, fun hlast => ⟨?_, ?_⟩,
    fun hmore => ⟨?_, ?_⟩⟩
  · exact exec_readSamples_of_last hrun hframe hlast
  · rw [← hlast]
    exact exec_readSamplesAvail_of_last hrun hframe hlast
  · exact exec_readSamples_of_more hrun hframe hmore
  · exact exec_readSamplesAvail_of_more hrun hframe hmore

/-- Settles O35: `ticks_readSamples` from the turn that takes the packet. -/
theorem wholeReadSamplesReturnsFrames : Obligations.WholeReadSamplesReturnsFrames := by
  intro s n rest hrun hidle hidx hemitted hwords hn hlen
  obtain ⟨k, hk⟩ := Nat.exists_eq_add_one_of_ne_zero hn.ne'
  have hturn := tick_host_of_instr hidle (hwords ▸ decodePacket_readSamples n rest)
  have hdue : s.port.idx + (k + 1) = n.toNat := by rw [hidx, hk, Nat.zero_add]
  rw [hk] at hlen ⊢
  rw [ticks_readSamples hturn hrun hdue hlen, hemitted, Nat.add_comm k 1, ← Nat.add_assoc]
  rfl

end Sys2Proof.Proofs
end

section
/-! SUPPORT. `fp_round` as a function of the real alone, and its users DIV_CALC and SAMPLE_TO_FLOAT (R12, R121, R122, R126,
R127, R212; log 21, log 24). -/

namespace Sys2Proof.Machine

open Sys2Proof.Claims

/-! ## One function of the real -/

section SameReal
variable {x y : ExactReal} (hx : 0 < x.den) (hy : 0 < y.den)
include hx hy

/-- The tests of a scaled magnitude read the magnitude only. -/
theorem scaledEq_congr (hmag : magnitude x = magnitude y) (c m : Nat) : scaledEq x c m = scaledEq y c m := by
  rw [Bool.eq_iff_iff, scaledEq_iff hx, scaledEq_iff hy, hmag]

theorem withinTolerance_congr (hneg : x.neg = y.neg) (hmag : magnitude x = magnitude y) (par : RunParams) (p : Word) :
    withinTolerance par x p = withinTolerance par y p := by
  have hle (c m : Nat) : scaledLe x c m = scaledLe y c m := by
    rw [Bool.eq_iff_iff, scaledLe_iff hx, scaledLe_iff hy, hmag]
  have hge (c m : Nat) : leScaled x c m = leScaled y c m := by
    rw [Bool.eq_iff_iff, leScaled_iff hx, leScaled_iff hy, hmag]
  rw [withinTolerance, withinTolerance, hneg, hle, hge]

theorem nearestEven_congr (hneg : x.neg = y.neg) (hmag : magnitude x = magnitude y) : nearestEven x = nearestEven y := by
  have hfloor : floorAt x 180 = floorAt y 180 := by rw [floorAt_eq_floor hx, floorAt_eq_floor hy, hmag]
  have hbits : nearestEvenMagnitude x = nearestEvenMagnitude y := by
    simp only [nearestEvenMagnitude, hfloor, scaledEq_congr hx hy hmag]
  rw [nearestEven, nearestEven, hneg, hbits]

theorem representable_congr (hneg : x.neg = y.neg) (hmag : magnitude x = magnitude y) :
    representable x = representable y := by
  simp only [representable, nearestEven_congr hx hy hneg hmag, scaledEq_congr hx hy hmag]

end SameReal

theorem magnitude_mul_self (x : ExactReal) : magnitude x * magnitude x =
    ((if x.root then (x.num : ℚ) / x.den else (x.num : ℚ) / x.den * ((x.num : ℚ) / x.den) : ℚ) : ℝ) := by
  rw [magnitude]
  split
  · rw [Real.mul_self_sqrt (by positivity)]
    push_cast
    rfl
  · push_cast
    rfl

/-- The signed square names the real (log 24). -/
theorem signedSquare_congr {x y : ExactReal} (hneg : x.neg = y.neg) (hmag : magnitude x = magnitude y) :
    signedSquare x = signedSquare y := by
  have hsquare := magnitude_mul_self x
  rw [hmag, magnitude_mul_self y, Rat.cast_inj] at hsquare
  rw [signedSquare, signedSquare, hneg, hsquare]

theorem sign_inj {b c : Bool} (h : (if b then (-1 : ℝ) else 1) = if c then -1 else 1) : b = c := by
  match b, c with
  | true, true | false, false => rfl
  | true, false | false, true => norm_num at h

/-- Two ways to write a real other than zero have its sign. -/
theorem neg_eq_of_realOf_eq {x y : ExactReal} (h : realOf x = realOf y) (hmag : magnitude x = magnitude y)
    (hne : magnitude y ≠ 0) : x.neg = y.neg := by
  rw [realOf_eq_magnitude, realOf_eq_magnitude, hmag, mul_left_inj' hne] at h
  exact sign_inj h

/-- `fp_round` of equal reals is one pattern (R12; log 24). -/
theorem fpRound_congr (par : RunParams) {x y : ExactReal} (hx : 0 < x.den) (hy : 0 < y.den) (h : realOf x = realOf y) :
    fpRound par x = fpRound par y := by
  have hmag : magnitude x = magnitude y := by rw [← abs_realOf, ← abs_realOf, h]
  by_cases hzero : magnitude y = 0
  · rw [fpRound_zero hx par (hmag.trans hzero), fpRound_zero hy par hzero]
  · have hneg := neg_eq_of_realOf_eq h hmag hzero
    simp only [fpRound, nearestEven_congr hx hy hneg hmag, representable_congr hx hy hneg hmag,
      signedSquare_congr hneg hmag, withinTolerance_congr hx hy hneg hmag]

/-! ## The range of the rules -/

/-- A ratio, or the root of one, from 2^-100 to 2^100 is neither too small nor too large for a normalised pattern. -/
theorem magnitude_range {x : ExactReal} (hden : 0 < x.den) (hle : x.num ≤ 2 ^ 100 * x.den)
    (hge : x.den ≤ 2 ^ 100 * x.num) : 1 ≤ magnitude x * 2 ^ 126 ∧ magnitude x ≤ 2 ^ 126 := by
  have hden' : (0 : ℝ) < x.den := by exact_mod_cast hden
  have hle' : (x.num : ℝ) / x.den ≤ 2 ^ 100 := by
    rw [div_le_iff₀ hden']
    exact_mod_cast hle
  have hge' : (1 : ℝ) / 2 ^ 100 ≤ x.num / x.den := by
    rw [div_le_div_iff₀ (by positivity) hden', one_mul, mul_comm]
    exact_mod_cast hge
  rw [magnitude]
  split
  · have hlow : (1 : ℝ) / 2 ^ 50 ≤ Real.sqrt (x.num / x.den) :=
      Real.le_sqrt_of_sq_le (by linarith)
    have hhigh : Real.sqrt ((x.num : ℝ) / x.den) ≤ 2 ^ 50 := by
      rw [Real.sqrt_le_left (by positivity)]
      linarith
    constructor <;> linarith
  · constructor <;> linarith

/-- `fp_round` stays within FP_TOL on the range of the rules (R126). -/
theorem fpRound_within_of_range {par : RunParams} {x : ExactReal} (hden : 0 < x.den) (hle : x.num ≤ 2 ^ 100 * x.den)
    (hge : x.den ≤ 2 ^ 100 * x.num) (htol : 0 < par.fpTolDen) (htol' : par.fpTolDen ≤ par.fpTolNum * 2 ^ 23) :
    fpIsFinite (fpRound par x) ∧
      |fpValue (fpRound par x) - realOf x| ≤ (par.fpTolNum : ℝ) / par.fpTolDen * |realOf x| := by
  obtain ⟨hlow, hhigh⟩ := magnitude_range hden hle hge
  exact fpRound_within hden hlow hhigh htol htol'

/-! ## DIV_CALC -/

/-- DIV_CALC of positive operands answers the divider (R121, R122). -/
theorem exec_divCalc_of_pos {s : State} {cycles : BitVec 24} {sysClk symFreq : Word} (hcycles : 0 < cycles.toNat)
    (hclk : 0 < sysClk.toNat) (hfreq : 0 < symFreq.toNat) : exec (.divCalc cycles sysClk symFreq) s =
      .next (respond .ok [dividerWord s.par sysClk.toNat symFreq.toNat cycles.toNat] s) :=
  if_pos ⟨hclk, hfreq, hcycles⟩

/-- DIV_CALC with a zero operand answers a word drawn (R127). -/
theorem exec_divCalc_of_zero {s : State} {cycles : BitVec 24} {sysClk symFreq : Word}
    (h : cycles = 0#24 ∨ sysClk = 0#32 ∨ symFreq = 0#32) : exec (.divCalc cycles sysClk symFreq) s =
      .next (respond .ok [Config.freeWord s.env.wordDraws] (drawWord s)) := by
  refine if_neg ?_
  rintro ⟨hclk, hfreq, hcycles⟩
  obtain rfl | rfl | rfl := h
  · exact hcycles.ne' rfl
  · exact hclk.ne' rfl
  · exact hfreq.ne' rfl

theorem realOf_exactRatio (num den : Nat) : realOf (exactRatio num den) = (num : ℝ) / den := one_mul _

/-! ## SAMPLE_TO_FLOAT -/

theorem byteHeader_sampleToFloat : byteHeader 0x31#8 .sampleToFloat := by
  refine fun ws => ⟨decodePacket_sampleToFloat ws, fun a (ha : aHigh a ≠ 0#16) => ?_⟩
  exact (decodePacket_header ..).trans (if_neg ha)

theorem exists_width_bits {n : Nat} (h : n ∈ [16, 24, 32]) : ∃ w : SampleWidth, w.bits = n := by
  simp only [List.mem_cons, List.not_mem_nil, or_false] at h
  obtain rfl | rfl | rfl := h
  exacts [⟨.w16, rfl⟩, ⟨.w24, rfl⟩, ⟨.w32, rfl⟩]

theorem exec_sampleToFloat_of_width {s : State} {w : BitVec 8} {width : SampleWidth} (h : width.bits = w.toNat)
    (x : Word) : exec (.sampleToFloat w x) s = .next (respond .ok [fpRound s.par (normalised width x.toInt)] s) := by
  change execSampleToFloat w x s = _
  rw [execSampleToFloat, ← h, widthOfNat_bits]

section Normalised
variable (width : SampleWidth) (v : Int)

theorem normalised_den_pos : 0 < (normalised width v).den := by
  change 0 < 2 ^ (width.bits - 1) - 1
  cases width <;> decide

/-- The sample over the largest positive one (R212). -/
theorem realOf_normalised : realOf (normalised width v) = (v : ℝ) / (2 ^ (width.bits - 1) - 1) := by
  have hden : ((normalised width v).den : ℝ) = 2 ^ (width.bits - 1) - 1 := by
    change ((2 ^ (width.bits - 1) - 1 : ℕ) : ℝ) = _
    rw [Nat.cast_sub Nat.one_le_two_pow, Nat.cast_pow, Nat.cast_ofNat, Nat.cast_one]
  rw [realOf_eq_magnitude]
  change (if decide (v < 0) then (-1 : ℝ) else 1) * ((v.natAbs : ℝ) / (normalised width v).den) = _
  rw [hden, Nat.cast_natAbs, Int.cast_abs, ← mul_div_assoc]
  congr 1
  obtain hneg | hpos := Int.lt_or_le v 0
  · rw [decide_eq_true hneg, if_pos rfl, abs_of_neg (Int.cast_lt_zero.mpr hneg), neg_one_mul, neg_neg]
  · rw [decide_eq_false (Int.not_lt.mpr hpos), if_neg Bool.false_ne_true, abs_of_nonneg (Int.cast_nonneg hpos),
      one_mul]

variable {width v} {par : RunParams}

/-- `fp_round` of a normalised sample lies within FP_TOL of it (R126, R212). -/
theorem fpRound_normalised_within (hv : v.natAbs ≤ 2 ^ 31) (htol : 0 < par.fpTolDen)
    (htol' : par.fpTolDen ≤ par.fpTolNum * 2 ^ 23) :
    fpIsFinite (fpRound par (normalised width v)) ∧
      |fpValue (fpRound par (normalised width v)) - realOf (normalised width v)| ≤
        (par.fpTolNum : ℝ) / par.fpTolDen * |realOf (normalised width v)| := by
  have hden := normalised_den_pos width v
  by_cases hzero : v = 0
  · have hmag : magnitude (normalised width v) = 0 := by
      rw [← abs_realOf, realOf_normalised, hzero]
      simp
    obtain ⟨hfinite, hvalue⟩ := fpRound_exact hden par (isBinary32_of_zero hmag)
    refine ⟨hfinite, ?_⟩
    rw [hvalue, sub_self, abs_zero, abs_realOf, hmag, mul_zero]
  · have hle : v.natAbs ≤ 2 ^ 100 * (normalised width v).den :=
      (hv.trans (by decide)).trans (Nat.le_mul_of_pos_right _ hden)
    have hden' : (normalised width v).den ≤ 2 ^ 100 := by
      change 2 ^ (width.bits - 1) - 1 ≤ 2 ^ 100
      cases width <;> decide
    exact fpRound_within_of_range hden hle (hden'.trans (Nat.le_mul_of_pos_right _ (Int.natAbs_pos.mpr hzero))) htol htol'

theorem fpRound_normalised_zero (width : SampleWidth) (par : RunParams) : fpRound par (normalised width 0) = 0#32 := by
  refine fpRound_zero (normalised_den_pos width 0) par ?_
  rw [← abs_realOf, realOf_normalised]
  simp

/-- The real 1 is rounded to the pattern of 1.0, under every rounding (R126). -/
theorem fpRound_one {x : ExactReal} (hden : 0 < x.den) (hone : realOf x = 1) (par : RunParams) :
    fpRound par x = 0x3F800000#32 := by
  have hratio : realOf x = realOf (exactRatio 1 1) := by rw [hone, realOf_exactRatio, Nat.cast_one, div_one]
  rw [fpRound_congr par hden Nat.one_pos hratio, fpRound_of_representable par (by decide)]
  decide

theorem realOf_normalised_largest (width : SampleWidth) : realOf (normalised width (2 ^ (width.bits - 1) - 1)) = 1 := by
  have hne : (2 : ℝ) ^ (width.bits - 1) - 1 ≠ 0 := by cases width <;> norm_num [SampleWidth.bits]
  rw [realOf_normalised]
  push_cast
  exact div_self hne

/-- The least sample of each width under the default rounding, as R212 writes it. -/
theorem nearestEven_leastSample (width : SampleWidth) : nearestEven (normalised width (-2 ^ (width.bits - 1))) =
    if width.bits = 16 then 0xBF800100#32 else if width.bits = 24 then 0xBF800001#32 else 0xBF800000#32 := by
  cases width <;> decide

end Normalised

end Sys2Proof.Machine

namespace Sys2Proof.Proofs

open Sys2Proof.Machine Sys2Proof.Claims

/-- Settles O19: the divider is `fp_round` of the quotient, whose ratio is in the range of the rules. -/
theorem divCalcAnswersQuotient : Obligations.DivCalcAnswersQuotient := by
  intro s cycles sysClk symFreq hcycles hclk hfreq htol htol'
  have hproduct : 0 < cycles.toNat * symFreq.toNat := Nat.mul_pos hcycles hfreq
  have hle : sysClk.toNat ≤ 2 ^ 100 * (cycles.toNat * symFreq.toNat) :=
    (sysClk.isLt.le.trans (by decide)).trans (Nat.le_mul_of_pos_right _ hproduct)
  have hge : cycles.toNat * symFreq.toNat ≤ 2 ^ 100 * sysClk.toNat :=
    ((Nat.mul_le_mul cycles.isLt.le symFreq.isLt.le).trans (by decide)).trans (Nat.le_mul_of_pos_right _ hclk)
  have hwithin := fpRound_within_of_range (x := exactRatio sysClk.toNat (cycles.toNat * symFreq.toNat)) hproduct hle hge
    htol htol'
  have hexact := fpRound_exact (x := exactRatio sysClk.toNat (cycles.toNat * symFreq.toNat)) hproduct s.par
  rw [realOf_exactRatio] at hwithin hexact
  obtain ⟨hfinite, hclose⟩ := hwithin
  exact ⟨_, exec_divCalc_of_pos hcycles hclk hfreq, hfinite, hclose, fun hvalue => (hexact hvalue).2⟩

/-- Settles O20. -/
theorem divCalcZeroOperandIsFree : Obligations.DivCalcZeroOperandIsFree := fun _ _ _ _ => exec_divCalc_of_zero

/-- Settles O21. -/
theorem fpRoundWithinTolerance : Obligations.FpRoundWithinTolerance :=
  fun _ _ hden _ hle hge htol htol' => fpRound_within_of_range hden hle hge htol htol'

/-- Settles O22: exact by `fpRound_exact`, one function of the real by `fpRound_congr`. -/
theorem fpRoundExactWhenRepresentable : Obligations.FpRoundExactWhenRepresentable :=
  ⟨fun par _ hden hvalue => fpRound_exact hden par hvalue, fun par _ _ hx hy h => fpRound_congr par hx hy h⟩

/-- Settles O38: the header by `byteHeader_sampleToFloat`, the word as `fp_round` of the normalised sample. -/
theorem floatIsNormalisedSample : Obligations.FloatIsNormalisedSample := by
  refine ⟨byteHeader_sampleToFloat, fun s w x => ⟨fun hw => exec_sampleToFloat_badWidth hw x s,
    fun hw htol htol' => ?_⟩⟩
  obtain ⟨width, hbits⟩ := exists_width_bits hw
  have hden := normalised_den_pos width x.toInt
  have hlow := x.le_toInt
  have hhigh := x.toInt_lt
  have hwithin := fpRound_normalised_within (width := width) (v := x.toInt) (by omega) htol htol'
  have hexact := fpRound_exact hden s.par
  refine ⟨_, exec_sampleToFloat_of_width hbits x, ?_⟩
  rw [← hbits]
  rw [realOf_normalised] at hwithin hexact
  obtain ⟨hfinite, hclose⟩ := hwithin
  refine ⟨hfinite, hclose, fun hvalue => (hexact hvalue).2, fun hzero => ?_, fun hlargest => ?_, fun hround hleast => ?_⟩
  · rw [hzero]
    exact fpRound_normalised_zero width s.par
  · rw [hlargest]
    exact fpRound_one (normalised_den_pos _ _) (realOf_normalised_largest width) s.par
  · rw [hleast, ← nearestEven_leastSample, fpRound, hround]

end Sys2Proof.Proofs
end
